-- ==== Sys2Proof/Word.lean ====
section
/-! DEFINITION. The word types of the block's ports. Patterns and widths are plain natural numbers (`Nat`), as in the spec's own
notation (00_scope.md R12: "Patterns are natural numbers below `2^n` with their width carried alongside"), because a
data port is `NMAX` bits wide and `NMAX` is an open parameter (log entry 7). The ports of a fixed width are bit vectors. -/

namespace Sys2Proof

/-- The control word `CW` (30_encoding.md R80). -/
abbrev ControlWord := BitVec 16

/-- A 2-bit field: a sign-behaviour code (10_state.md R36) or `ORD` (10_state.md R42). -/
abbrev Code2 := BitVec 2

/-- The truth table `TT` of MAP (30_encoding.md R83). -/
abbrev TruthTable := BitVec 4

/-- The `ERR` port (10_state.md R35). -/
abbrev ErrField := BitVec 3

end Sys2Proof
end

