-- ==== Sys2Proof/Syntax.lean ====
section
/-! DEFINITION. The block's instructions: one constructor per row of spec/opcode_table.json (30_encoding.md R82), with the
fields of `CW` that the row leaves open (30_encoding.md R86). -/

namespace Sys2Proof

/-- The three sign behaviours (10_state.md R36). -/
inductive SignBehavior where
  | unsigned
  | signed
  | magnitude
  deriving DecidableEq, Repr

/-- What a sign-behaviour field of `CW` can hold: a behaviour, or the reserved code `11` (10_state.md R36). -/
inductive SignField where
  | unsigned
  | signed
  | magnitude
  | reserved
  deriving DecidableEq, Repr

/-- The operations of 30_encoding.md R82. A binary operation carries `SBA` and `SBB`, a unary one `SBA` alone, and MAP its
truth table first. -/
inductive Instr where
  | add (sba sbb : SignField)
  | adc (sba sbb : SignField)
  | sub (sba sbb : SignField)
  | inc (sba : SignField)
  | dec (sba : SignField)
  | neg (sba : SignField)
  | and (sba sbb : SignField)
  | or (sba sbb : SignField)
  | xor (sba sbb : SignField)
  | nand (sba sbb : SignField)
  | nor (sba sbb : SignField)
  | xnor (sba sbb : SignField)
  | map (tt : TruthTable) (sba sbb : SignField)
  | cmp (sba sbb : SignField)
  deriving DecidableEq, Repr

end Sys2Proof
end

