-- ==== Sys2Proof/Decode.lean ====
section
/-! DEFINITION. The control word's fields (30_encoding.md R81), the decoder (R91), the encoder, and the opcode table as masks and
matches (R86). -/

namespace Sys2Proof

/-- `SBA` (60_exceptions.md R305). -/
def Instr.sba : Instr → SignField
  | .add a _ => a
  | .adc a _ => a
  | .sub a _ => a
  | .inc a => a
  | .dec a => a
  | .neg a => a
  | .and a _ => a
  | .or a _ => a
  | .xor a _ => a
  | .nand a _ => a
  | .nor a _ => a
  | .xnor a _ => a
  | .map _ a _ => a
  | .cmp a _ => a

/-- `SBB`, for a binary operation (60_exceptions.md R305). -/
def Instr.sbb? : Instr → Option SignField
  | .add _ b => some b
  | .adc _ b => some b
  | .sub _ b => some b
  | .inc _ => none
  | .dec _ => none
  | .neg _ => none
  | .and _ b => some b
  | .or _ b => some b
  | .xor _ b => some b
  | .nand _ b => some b
  | .nor _ b => some b
  | .xnor _ b => some b
  | .map _ _ b => some b
  | .cmp _ b => some b

/-- The classes of 30_encoding.md R82: every operation but INC, DEC and NEG is binary. -/
def Instr.isBinary (i : Instr) : Bool := i.sbb?.isSome

/-- `OP = CW[3:0]` (30_encoding.md R81). -/
def opField (cw : ControlWord) : BitVec 4 := cw.extractLsb' 0 4

/-- `TT = CW[7:4]` (30_encoding.md R81). -/
def ttField (cw : ControlWord) : TruthTable := cw.extractLsb' 4 4

/-- `SBA = CW[9:8]` (30_encoding.md R81). -/
def sbaField (cw : ControlWord) : Code2 := cw.extractLsb' 8 2

/-- `SBB = CW[11:10]` (30_encoding.md R81). -/
def sbbField (cw : ControlWord) : Code2 := cw.extractLsb' 10 2

/-- `CW[15:12]`, which must be zero (30_encoding.md R81, R86). -/
def topField (cw : ControlWord) : BitVec 4 := cw.extractLsb' 12 4

/-- The codes of 10_state.md R36. -/
def signFieldOfCode (c : Code2) : SignField :=
  if c = 0#2 then .unsigned else if c = 1#2 then .signed else if c = 2#2 then .magnitude else .reserved

/-- The codes of 10_state.md R36. -/
def codeOfSignField : SignField → Code2
  | .unsigned => 0#2
  | .signed => 1#2
  | .magnitude => 2#2
  | .reserved => 3#2

/-- A behaviour as a field's content. -/
def fieldOfSign : SignBehavior → SignField
  | .unsigned => .unsigned
  | .signed => .signed
  | .magnitude => .magnitude

/-- The behaviour that a field names; the reserved code names none (10_state.md R36). -/
def signOfField : SignField → Option SignBehavior
  | .unsigned => some .unsigned
  | .signed => some .signed
  | .magnitude => some .magnitude
  | .reserved => none

/-- The code of a behaviour on `SBR` (10_state.md R36). -/
def codeOfSign (sb : SignBehavior) : Code2 := codeOfSignField (fieldOfSign sb)

/-- Why `CW` matches no operation, by name: the four sub-checks of 30_encoding.md R91 in their order. Each is
answered `Err(ILLEGAL)`. -/
inductive DecodeError where
  /-- `CW[15:12] != 0`. -/
  | topBits
  /-- `OP` is `0xE` or `0xF`. -/
  | reservedOpcode
  /-- `TT != 0` and the operation is not MAP. -/
  | truthTable
  /-- `SBB != 00` on INC, DEC or NEG. -/
  | unarySignB
  deriving DecidableEq, Repr

/-- The operation of an opcode, given the other fields (30_encoding.md R82); `none` on the reserved opcodes (R92). -/
def instrOfOp (op : BitVec 4) (tt : TruthTable) (a b : SignField) : Option Instr :=
  match op.toNat with
  | 0 => some (.add a b)
  | 1 => some (.adc a b)
  | 2 => some (.sub a b)
  | 3 => some (.inc a)
  | 4 => some (.dec a)
  | 5 => some (.neg a)
  | 6 => some (.and a b)
  | 7 => some (.or a b)
  | 8 => some (.xor a b)
  | 9 => some (.nand a b)
  | 10 => some (.nor a b)
  | 11 => some (.xnor a b)
  | 12 => some (.map tt a b)
  | 13 => some (.cmp a b)
  | _ => none

/-- The decoder of 30_encoding.md R91, total on every control word. -/
def decode (cw : ControlWord) : Except DecodeError Instr :=
  if topField cw ≠ 0#4 then .error .topBits
  else
    match instrOfOp (opField cw) (ttField cw) (signFieldOfCode (sbaField cw)) (signFieldOfCode (sbbField cw)) with
    | none => .error .reservedOpcode
    | some i =>
      if opField cw ≠ 0xC#4 ∧ ttField cw ≠ 0#4 then .error .truthTable
      else if i.isBinary = false ∧ sbbField cw ≠ 0#2 then .error .unarySignB
      else .ok i

/-- The opcode of an instruction (30_encoding.md R82). -/
def opOfInstr : Instr → BitVec 4
  | .add _ _ => 0x0#4
  | .adc _ _ => 0x1#4
  | .sub _ _ => 0x2#4
  | .inc _ => 0x3#4
  | .dec _ => 0x4#4
  | .neg _ => 0x5#4
  | .and _ _ => 0x6#4
  | .or _ _ => 0x7#4
  | .xor _ _ => 0x8#4
  | .nand _ _ => 0x9#4
  | .nor _ _ => 0xA#4
  | .xnor _ _ => 0xB#4
  | .map _ _ _ => 0xC#4
  | .cmp _ _ => 0xD#4

/-- The `TT` field of an instruction's word: zero but for MAP (30_encoding.md R86). -/
def ttOfInstr : Instr → TruthTable
  | .map tt _ _ => tt
  | .add _ _ => 0#4
  | .adc _ _ => 0#4
  | .sub _ _ => 0#4
  | .inc _ => 0#4
  | .dec _ => 0#4
  | .neg _ => 0#4
  | .and _ _ => 0#4
  | .or _ _ => 0#4
  | .xor _ _ => 0#4
  | .nand _ _ => 0#4
  | .nor _ _ => 0#4
  | .xnor _ _ => 0#4
  | .cmp _ _ => 0#4

/-- The `SBB` field of an instruction's word: zero for a unary operation (30_encoding.md R85). -/
def sbbCodeOfInstr (i : Instr) : Code2 :=
  match i.sbb? with
  | some b => codeOfSignField b
  | none => 0#2

/-- `CW` from its fields, most significant first: reserved, SBB, SBA, TT, OP (30_encoding.md R81). -/
def packWord (top : BitVec 4) (sbb sba : Code2) (tt : TruthTable) (op : BitVec 4) : ControlWord :=
  top ++ sbb ++ sba ++ tt ++ op

/-- The encoder: the word of an instruction (30_encoding.md R81, R82, R86). -/
def encode (i : Instr) : ControlWord :=
  packWord 0#4 (sbbCodeOfInstr i) (codeOfSignField i.sba) (ttOfInstr i) (opOfInstr i)

/-- One row of the table of 30_encoding.md R86: the fixed bits, their value, and the opcode the row is for. -/
structure OpcodeRow where
  mask : ControlWord
  value : ControlWord
  op : BitVec 4
  deriving DecidableEq, Repr

/-- `(CW & mask) == match` (30_encoding.md R86). -/
def OpcodeRow.fits (row : OpcodeRow) (cw : ControlWord) : Bool := cw &&& row.mask == row.value

/-- The opcode table, a row for each operation (30_encoding.md R86; spec/opcode_table.json). -/
def opcodeTable : List OpcodeRow :=
  [ ⟨0xF0FF#16, 0x0000#16, 0x0#4⟩, ⟨0xF0FF#16, 0x0001#16, 0x1#4⟩, ⟨0xF0FF#16, 0x0002#16, 0x2#4⟩,
    ⟨0xFCFF#16, 0x0003#16, 0x3#4⟩, ⟨0xFCFF#16, 0x0004#16, 0x4#4⟩, ⟨0xFCFF#16, 0x0005#16, 0x5#4⟩,
    ⟨0xF0FF#16, 0x0006#16, 0x6#4⟩, ⟨0xF0FF#16, 0x0007#16, 0x7#4⟩, ⟨0xF0FF#16, 0x0008#16, 0x8#4⟩,
    ⟨0xF0FF#16, 0x0009#16, 0x9#4⟩, ⟨0xF0FF#16, 0x000A#16, 0xA#4⟩, ⟨0xF0FF#16, 0x000B#16, 0xB#4⟩,
    ⟨0xF00F#16, 0x000C#16, 0xC#4⟩, ⟨0xF0FF#16, 0x000D#16, 0xD#4⟩ ]

/-- The control word of an instruction whose bits are `w`, of which the table gives `nbits`: the bits above `nbits` are 0. The
whole instruction is the one 16-bit word (30_encoding.md R93), and a number's bits above 15 belong to no port (log entry 8). -/
def wordOfBits (nbits w : Nat) : ControlWord := BitVec.ofNat 16 (w % 2 ^ nbits)

/-- What the decoder reads from an instruction whose bits are `w`. -/
def decodeTableWord (nbits w : Nat) : Option Instr :=
  match decode (wordOfBits nbits w) with
  | .ok i => some i
  | .error _ => none

end Sys2Proof
end

