-- ==== Sys2Proof/Config.lean ====
section
/-! DEFINITION. What one implementation of the block fixes: its largest operand width `NMAX` (00_scope.md R6, R8). -/

namespace Sys2Proof

/-- The parameters of one implementation. `nmax` is `NMAX`, an OPEN parameter that the model takes as an argument
(00_scope.md R6): it stands in State, so that a statement about every state holds for every `NMAX`. -/
structure Config where
  nmax : Nat
  deriving DecidableEq, Repr

/-- `NMAX >= 1` (00_scope.md R6). -/
abbrev Config.wf (c : Config) : Prop := 1 ≤ c.nmax

/-- `WBITS = floor(log2(NMAX)) + 1`, the width of each width port (00_scope.md R7). -/
def Config.wbits (c : Config) : Nat := Nat.log2 c.nmax + 1

/-- DESIGN CHOICE (log entry 1): the instance that `State.reset` shows. Unsafe if a statement rested on the number;
none does. 16 is the width that 95_test_vectors.md assumes. -/
def Config.shown : Config := { nmax := 16 }

end Sys2Proof
end

