-- ==== Sys2Proof/Machine/State.lean ====
section
/-! DEFINITION. The machine's state: the block's ports (10_state.md R34, R35), its parameter, and the host's duty to hold the inputs
(70_reset_and_hazards.md R344). The block itself keeps no state (10_state.md R30): there is no register, flag latch, program
counter or memory to hold. -/

namespace Sys2Proof.Machine

/-- The input ports of a request (10_state.md R34). Bit `i` of `a` and `b` is bit `i` of the port (20_memory.md R60). -/
structure Inputs where
  cw : ControlWord
  a : Nat
  wa : Nat
  b : Nat
  wb : Nat
  cin : Bool
  deriving DecidableEq, Repr

/-- The output ports of a response (10_state.md R35). -/
structure Outputs where
  err : ErrField
  r : Nat
  wr : Nat
  sbr : Code2
  fo : Bool
  fz : Bool
  fs : Bool
  fp : Bool
  ord : Code2
  deriving DecidableEq, Repr

/-- The block as a machine. `out` is what the output ports show after the last request: no meaning reads it
(log entry 2). -/
structure State where
  /-- The implementation's parameter (00_scope.md R6; log entry 1). -/
  cfg : Config
  /-- The host holds every input port stable for as long as the block needs (70_reset_and_hazards.md R344; log entry 5). -/
  held : Bool
  /-- What the host drives on the input ports. -/
  inp : Inputs
  /-- What the output ports show. -/
  out : Outputs
  deriving DecidableEq, Repr

/-- Why a step can have no outcome. -/
inductive Fault where
  /-- Raised by `step`, never by an instruction's meaning, when the inputs are not held stable: the spec defines no response then
  (70_reset_and_hazards.md R344; 93_implementation_defined.md K1.14, `stuck`). Safe: the model stops where a block would show
  some value. -/
  | inputsChanging
  deriving DecidableEq, Repr

/-- Why an instruction can have no meaning. -/
inductive Refusal where
  /-- Raised by an arm of `exec` for an instruction that has no meaning yet. Every instruction has one, so no arm raises it.
  Safe. -/
  | notModelled (mnemonic : String)
  deriving DecidableEq, Repr

/-- The error codes of 60_exceptions.md R301. -/
inductive ErrCode where
  /-- Reserved opcode, or a nonzero must-be-zero field of `CW`. -/
  | illegal
  /-- A sign-behaviour field that the operation uses holds `11`. -/
  | badSb
  /-- A width port that the operation uses holds a value above `NMAX`. -/
  | badWidth
  /-- `SBA != SBB` on a two-operand arithmetic or bitwise operation. -/
  | signMismatch
  deriving DecidableEq, Repr

/-- The four flags `F = (O, Z, S, P)` (10_state.md R40, R43). -/
structure Flags where
  o : Bool
  z : Bool
  s : Bool
  p : Bool
  deriving DecidableEq, Repr

/-- A response in the abstract form of 10_state.md R43. `ord` is the comparator's outcome (R42), `.eq` for every other
operation. -/
inductive Response where
  | ok (r : Nat) (wr : Nat) (sbr : SignBehavior) (f : Flags) (ord : Ordering)
  | err (c : ErrCode)
  deriving DecidableEq, Repr

/-- DESIGN CHOICE (log entry 3): the spec gives the input ports no value at reset. Unsafe if a statement rested on it. -/
def Inputs.reset : Inputs := { cw := 0#16, a := 0, wa := 0, b := 0, wb := 0, cin := false }

/-- DESIGN CHOICE (log entry 4): the response to the reset inputs, since stable inputs have their response "immediately after
power-up" (70_reset_and_hazards.md R341). They read as `ADD u1'b0, u1'b0`. -/
def Outputs.reset : Outputs :=
  { err := 0#3, r := 0, wr := 1, sbr := 0#2, fo := false, fz := true, fs := false, fp := false, ord := 0#2 }

/-- The reset state of an implementation with the parameter `c`. The block has no reset input and no reset state
(70_reset_and_hazards.md R340). -/
def State.resetAt (c : Config) : State := { cfg := c, held := true, inp := Inputs.reset, out := Outputs.reset }

/-- The machine right after reset, for the instance that log entry 1 names. -/
def State.reset : State := State.resetAt Config.shown

end Sys2Proof.Machine
end

