-- ==== Sys2Proof/Machine/Ops.lean ====
section
/-! DEFINITION. The named operations over the ports: driving the inputs, presenting a response, and answering with an error, which is
the block's whole trap mechanism (60_exceptions.md R300, R312). There is no return from an error (R313). -/

namespace Sys2Proof.Machine

/-- `ERR` of an error code (60_exceptions.md R301). -/
def errField : ErrCode → ErrField
  | .illegal => 1#3
  | .badSb => 2#3
  | .badWidth => 3#3
  | .signMismatch => 4#3

/-- `ORD` of a comparison outcome (10_state.md R42). -/
def ordCode : Ordering → Code2
  | .eq => 0#2
  | .lt => 1#2
  | .gt => 2#2

/-- The output ports of an error response: `ERR` holds the code, every other output is 0 (60_exceptions.md R300). -/
def errorOutputs (e : ErrField) : Outputs :=
  { err := e, r := 0, wr := 0, sbr := 0#2, fo := false, fz := false, fs := false, fp := false, ord := 0#2 }

/-- The port form of a response (10_state.md R35, R43). -/
def Response.ports : Response → Outputs
  | .ok r wr sbr f ord =>
    { err := 0#3, r := r, wr := wr, sbr := codeOfSign sbr, fo := f.o, fz := f.z, fs := f.s, fp := f.p, ord := ordCode ord }
  | .err c => errorOutputs (errField c)

/-- The comparison outcome of an `ORD` code; `11` is none (10_state.md R42). -/
def orderingOfCode (c : Code2) : Option Ordering :=
  if c = 0#2 then some .eq else if c = 1#2 then some .lt else if c = 2#2 then some .gt else none

/-- The error code on an `ERR` port; 0 and the reserved codes 5, 6 and 7 are none (60_exceptions.md R301). -/
def errCodeOfField (e : ErrField) : Option ErrCode :=
  if e = 1#3 then some .illegal else if e = 2#3 then some .badSb else if e = 3#3 then some .badWidth
  else if e = 4#3 then some .signMismatch else none

/-- The abstract form of what the output ports show, where they show a response (10_state.md R43). -/
def Outputs.response? (o : Outputs) : Option Response :=
  if o.err = 0#3 then
    match signOfField (signFieldOfCode o.sbr), orderingOfCode o.ord with
    | some sb, some ord => some (.ok o.r o.wr sb { o := o.fo, z := o.fz, s := o.fs, p := o.fp } ord)
    | _, _ => none
  else
    match errCodeOfField o.err with
    | some c => if o = errorOutputs o.err then some (.err c) else none
    | none => none

/-- The host drives a request on the input ports and holds it (10_state.md R34; 70_reset_and_hazards.md R344). -/
def State.drive (s : State) (x : Inputs) : State := { s with held := true, inp := x }

/-- The host puts a control word on `CW` and leaves the other input ports as they are. -/
def State.driveWord (s : State) (cw : ControlWord) : State := s.drive { s.inp with cw := cw }

/-- The block presents a response: all output ports as one value, and nothing else changes (20_memory.md R63, R64). -/
def State.answer (s : State) (r : Response) : State := { s with out := r.ports }

/-- The block answers with an error response: no result exists, no state is saved, no mode changes and control goes nowhere
(60_exceptions.md R300, R312). -/
def State.raise (s : State) (c : ErrCode) : State := s.answer (.err c)

/-- The outcome of a request (log entry 6): the response is on the output ports, an error response too. -/
def reply (s : State) : Response → Host.Outcome State Fault Refusal
  | .ok r wr sbr f ord => .next (s.answer (.ok r wr sbr f ord))
  | .err c => .next (s.raise c)

end Sys2Proof.Machine
end

