-- ==== Sys2Proof/Machine/Operands.lean ====
section
/-! DEFINITION. The notation of 00_scope.md R12, operand preparation (40_datapath.md R120 to R125) and the checks that run before
any operation (60_exceptions.md R304 to R308). -/

namespace Sys2Proof.Machine

/-- `mask(n)`, the `n`-bit all-ones pattern (00_scope.md R12). -/
def mask (n : Nat) : Nat := 2 ^ n - 1

/-- `trunc_n(v)` of a natural number (00_scope.md R12). -/
def trunc (n : Nat) (v : Nat) : Nat := v % 2 ^ n

/-- `trunc_n(v)` of any integer, "so negative `v` wraps" (00_scope.md R12). -/
def truncInt (n : Nat) (v : Int) : Nat := (v % 2 ^ n).toNat

/-- `not_n(v)`, the complement within `n` bits (00_scope.md R12). -/
def notWithin (n : Nat) (v : Nat) : Nat := mask n - v

/-- `v[n-1]`, the top bit of an `n`-bit pattern (00_scope.md R10). -/
def topBit (v : Nat) (n : Nat) : Bool := v.testBit (n - 1)

/-- Byte `k` of a pattern: bus bits `8k+7` to `8k`, byte 0 in the least significant lane (00_scope.md R11; 20_memory.md R60). -/
def byteAt (v : Nat) (k : Nat) : Nat := v / 2 ^ (8 * k) % 256

/-- `ceil(n/8)`, the bytes that hold an `n`-bit pattern (20_memory.md R62). -/
def byteCount (n : Nat) : Nat := (n + 7) / 8

/-- `norm(w)`: a width of 0 is read as 1 (40_datapath.md R120). -/
def normWidth (w : Nat) : Nat := if w = 0 then 1 else w

/-- Operand A's pattern, cut to its width on entry (40_datapath.md R121). -/
def operandA (x : Inputs) : Nat := x.a &&& mask (normWidth x.wa)

/-- Operand B's pattern, cut to its width on entry (40_datapath.md R121). -/
def operandB (x : Inputs) : Nat := x.b &&& mask (normWidth x.wb)

/-- The working width of a unary operation (40_datapath.md R122). -/
def unaryWidth (x : Inputs) : Nat := normWidth x.wa

/-- The working width of a binary operation other than CMP (40_datapath.md R122). The shorter operand's pattern is the same number
at this width: padding is zero-extension (R123), and no operand is ever sign-extended (R125). -/
def binaryWidth (x : Inputs) : Nat := max (normWidth x.wa) (normWidth x.wb)

/-- The checks of 60_exceptions.md R308 on a unary operation: BAD_SB, then BAD_WIDTH. `WB` is ignored (R306). -/
def checkUnary (c : Config) (x : Inputs) (sba : SignField) : Except ErrCode SignBehavior :=
  match signOfField sba with
  | none => .error .badSb
  | some sb => if c.nmax < x.wa then .error .badWidth else .ok sb

/-- The checks of 60_exceptions.md R308 that every binary operation shares: BAD_SB on `SBA`, then on `SBB`, then BAD_WIDTH on `WA`,
then on `WB`. -/
def checkBinary (c : Config) (x : Inputs) (sba sbb : SignField) : Except ErrCode (SignBehavior × SignBehavior) :=
  match signOfField sba with
  | none => .error .badSb
  | some sa =>
    match signOfField sbb with
    | none => .error .badSb
    | some sb =>
      if c.nmax < x.wa then .error .badWidth
      else if c.nmax < x.wb then .error .badWidth
      else .ok (sa, sb)

/-- The checks of 60_exceptions.md R308 on a two-operand arithmetic or bitwise operation: those of every binary operation, then
SIGN_MISMATCH (R307). -/
def checkMatched (c : Config) (x : Inputs) (sba sbb : SignField) : Except ErrCode SignBehavior :=
  match checkBinary c x sba sbb with
  | .error e => .error e
  | .ok (sa, sb) => if sa = sb then .ok sa else .error .signMismatch

end Sys2Proof.Machine
end

