-- ==== Sys2Proof/Machine/Kernel.lean ====
section
/-! DEFINITION. The shared datapath: the value function (40_datapath.md R130), the kernel adder (R140 to R143), two's-complement
negation (R131), the overflow-tolerant sign conversions (R133 to R136) and the two's-complement envelope (R138). -/

namespace Sys2Proof.Machine

/-- `val(v, n, sb)`, the integer that an `n`-bit pattern stands for (40_datapath.md R130). -/
def val (v : Nat) (n : Nat) : SignBehavior → Int
  | .unsigned => (v : Int)
  | .signed => (v : Int) - 2 ^ n * (if topBit v n then 1 else 0)
  | .magnitude => if topBit v n then -((v &&& mask (n - 1) : Nat) : Int) else ((v &&& mask (n - 1) : Nat) : Int)

/-- The byte loop of the kernel adder after its first `k` bytes, low byte to high byte: the sum so far and the carry
(40_datapath.md R140). -/
def kaddLoop (a b : Nat) (cin : Bool) : Nat → Nat × Bool
  | 0 => (0, cin)
  | k + 1 =>
    let sofar := kaddLoop a b cin k
    let t := byteAt a k + byteAt b k + sofar.2.toNat
    (sofar.1 ||| (t % 256) * 2 ^ (8 * k), decide (255 < t))

/-- `clipped`: a set bit of the byte loop's sum at index `>= L`, which the mask removes (40_datapath.md R140). -/
def kaddClipped (a b : Nat) (cin : Bool) (L : Nat) : Bool := (kaddLoop a b cin (byteCount L)).1 >>> L != 0

/-- The carry out of the top byte (40_datapath.md R140). -/
def kaddCarry (a b : Nat) (cin : Bool) (L : Nat) : Bool := (kaddLoop a b cin (byteCount L)).2

/-- `kadd(a, b, cin, L)`, the kernel adder with its mask step: the result and the overflow (40_datapath.md R140, R141). -/
def kadd (a b : Nat) (cin : Bool) (L : Nat) : Nat × Bool :=
  ((kaddLoop a b cin (byteCount L)).1 &&& mask L, kaddClipped a b cin L || kaddCarry a b cin L)

/-- The kernel's own zero output: "true iff all result bytes are 0" (40_datapath.md R143). -/
def kernelZero (r : Nat) (L : Nat) : Bool := (List.range (byteCount L)).all fun k => byteAt r k == 0

/-- The kernel's own parity output, "bit 0 of the result" (40_datapath.md R143). -/
def kernelParity (r : Nat) : Bool := r.testBit 0

/-- `neg_n(x)`: "if the top bit is already set, decrement then bitwise-negate; otherwise bitwise-negate then increment"
(40_datapath.md R131). -/
def neg (n : Nat) (x : Nat) : Nat :=
  if topBit x n then notWithin n (kadd x (mask n) false n).1 else (kadd (notWithin n x) 0 true n).1

/-- `toTC(x, n, sb)`: a pattern in two's-complement form (40_datapath.md R133, R134). -/
def toTC (x : Nat) (n : Nat) : SignBehavior → Nat
  | .unsigned => x
  | .signed => x
  | .magnitude => if topBit x n then neg n (x &&& mask (n - 1)) else x

/-- `fromTC(t, n, sb)`: a two's-complement pattern under the behaviour `sb` (40_datapath.md R133, R135). -/
def fromTC (t : Nat) (n : Nat) : SignBehavior → Nat
  | .unsigned => t
  | .signed => t
  | .magnitude => if topBit t n then (neg n t &&& mask (n - 1)) ||| 2 ^ (n - 1) else t

/-- The two's-complement envelope on one operand (40_datapath.md R138). -/
def envelope (sb : SignBehavior) (L : Nat) (a : Nat) (kernel : Nat → Nat × Bool) : Nat × Bool :=
  let t := kernel (toTC a L sb)
  (fromTC t.1 L sb, t.2)

/-- The two's-complement envelope on two operands (40_datapath.md R138). -/
def envelope2 (sb : SignBehavior) (L : Nat) (a b : Nat) (kernel : Nat → Nat → Nat × Bool) : Nat × Bool :=
  let t := kernel (toTC a L sb) (toTC b L sb)
  (fromTC t.1 L sb, t.2)

end Sys2Proof.Machine
end

