-- ==== Sys2Proof/Machine/Flags.lean ====
section
/-! DEFINITION. The flag generator (40_datapath.md R150 to R154) and the success responses that carry its flags. -/

namespace Sys2Proof.Machine

/-- The flags of every success but CMP's: `FO` as the operation says, `FZ`, `FS` and `FP` read on the bits of the result
(40_datapath.md R150 to R153; 90_conflicts.md C3). -/
def resultFlags (o : Bool) (r : Nat) (wr : Nat) : Flags :=
  { o := o, z := r == 0, s := topBit r wr, p := r.testBit 0 }

/-- CMP's flags (46_compare.md R272). -/
def compareFlags (va vb : Int) : Flags := { o := false, z := va == vb, s := decide (va < vb), p := false }

/-- The outcome of CMP (46_compare.md R270). -/
def compareOutcome (va vb : Int) : Ordering := if va = vb then .eq else if va < vb then .lt else .gt

/-- The success response of every operation but CMP: the result is cut to its width (40_datapath.md R124), carries the sign
behaviour `sb` (R126), and `ORD` is 00 (10_state.md R42). -/
def resultResponse (sb : SignBehavior) (L : Nat) (y : Nat × Bool) : Response :=
  .ok (y.1 &&& mask L) L sb (resultFlags y.2 (y.1 &&& mask L) L) .eq

/-- The success response of CMP: no result word (46_compare.md R270, R272). -/
def compareResponse (va vb : Int) : Response := .ok 0 1 .unsigned (compareFlags va vb) (compareOutcome va vb)

end Sys2Proof.Machine
end

