-- ==== Sys2Proof/Machine/Request.lean ====
section
/-! DEFINITION. The three shapes of a request: the checks of 60_exceptions.md R308 first, then the operation on the prepared
operands. An operation is given the sign behaviour, the working width and the patterns, and gives its pattern and `FO`. -/

namespace Sys2Proof.Machine

/-- A unary request (INC, DEC, NEG). -/
def unaryResponse (c : Config) (x : Inputs) (sba : SignField)
    (operation : SignBehavior → Nat → Nat → Nat × Bool) : Response :=
  match checkUnary c x sba with
  | .error e => .err e
  | .ok sb => resultResponse sb (unaryWidth x) (operation sb (unaryWidth x) (operandA x))

/-- A two-operand arithmetic or bitwise request: both operands share one sign behaviour (60_exceptions.md R307). -/
def matchedResponse (c : Config) (x : Inputs) (sba sbb : SignField)
    (operation : SignBehavior → Nat → Nat → Nat → Nat × Bool) : Response :=
  match checkMatched c x sba sbb with
  | .error e => .err e
  | .ok sb => resultResponse sb (binaryWidth x) (operation sb (binaryWidth x) (operandA x) (operandB x))

/-- A comparison: each operand is read at its own width under its own sign behaviour (46_compare.md R270, R271). -/
def valueResponse (c : Config) (x : Inputs) (sba sbb : SignField) : Response :=
  match checkBinary c x sba sbb with
  | .error e => .err e
  | .ok (sa, sb) => compareResponse (val (operandA x) (normWidth x.wa) sa) (val (operandB x) (normWidth x.wb) sb)

end Sys2Proof.Machine
end

