-- ==== Sys2Proof/Machine/Adder.lean ====
section
/-! DEFINITION. The multi-width adder with carry: ADD and ADC (41_adder.md). -/

namespace Sys2Proof.Machine

/-- The adder's operation: `kadd` in the envelope, with the carry in (41_adder.md R160, R161). -/
def addWithCarry (cin : Bool) (sb : SignBehavior) (L : Nat) (a b : Nat) : Nat × Bool :=
  envelope2 sb L a b fun ta tb => kadd ta tb cin L

/-- ADD: no carry in, whatever `CIN` holds (41_adder.md R160). -/
def execAdd (sba sbb : SignField) (s : State) : Host.Outcome State Fault Refusal :=
  reply s (matchedResponse s.cfg s.inp sba sbb (addWithCarry false))

/-- ADC: the carry in is `CIN` (41_adder.md R161). -/
def execAdc (sba sbb : SignField) (s : State) : Host.Outcome State Fault Refusal :=
  reply s (matchedResponse s.cfg s.inp sba sbb (addWithCarry s.inp.cin))

end Sys2Proof.Machine
end

