-- ==== Sys2Proof/Machine/Bitwise.lean ====
section
/-! DEFINITION. The bitwise ALU: AND, OR, XOR, NAND, NOR, XNOR and MAP (45_bitwise.md). -/

namespace Sys2Proof.Machine

/-- `BITWISE_COMMON` of 45_bitwise.md: the sign behaviour plays no part in the pattern, and `FO` is 0 (R250). -/
def bitwise (pattern : Nat → Nat → Nat → Nat) (_sb : SignBehavior) (L : Nat) (a b : Nat) :
    Nat × Bool :=
  (pattern L a b, false)

/-- `TT[2*bit_a + bit_b]` (30_encoding.md R83). -/
def ttBit (tt : TruthTable) (a b : Bool) : Bool := tt.getLsbD (2 * a.toNat + b.toNat)

/-- MAP's loop over the bits `0 .. n-1` (45_bitwise.md R251). -/
def mapBits (tt : TruthTable) (a b : Nat) : Nat → Nat
  | 0 => 0
  | i + 1 => mapBits tt a b i ||| (ttBit tt (a.testBit i) (b.testBit i)).toNat * 2 ^ i

/-- AND (45_bitwise.md R240). -/
def execAnd (sba sbb : SignField) (s : State) : Host.Outcome State Fault Refusal :=
  reply s (matchedResponse s.cfg s.inp sba sbb (bitwise fun _ a b => a &&& b))

/-- OR (45_bitwise.md R241). -/
def execOr (sba sbb : SignField) (s : State) : Host.Outcome State Fault Refusal :=
  reply s (matchedResponse s.cfg s.inp sba sbb (bitwise fun _ a b => a ||| b))

/-- XOR (45_bitwise.md R242). -/
def execXor (sba sbb : SignField) (s : State) : Host.Outcome State Fault Refusal :=
  reply s (matchedResponse s.cfg s.inp sba sbb (bitwise fun _ a b => a ^^^ b))

/-- NAND (45_bitwise.md R243). -/
def execNand (sba sbb : SignField) (s : State) : Host.Outcome State Fault Refusal :=
  reply s (matchedResponse s.cfg s.inp sba sbb (bitwise fun L a b => notWithin L (a &&& b)))

/-- NOR (45_bitwise.md R244). -/
def execNor (sba sbb : SignField) (s : State) : Host.Outcome State Fault Refusal :=
  reply s (matchedResponse s.cfg s.inp sba sbb (bitwise fun L a b => notWithin L (a ||| b)))

/-- XNOR (45_bitwise.md R245). -/
def execXnor (sba sbb : SignField) (s : State) : Host.Outcome State Fault Refusal :=
  reply s (matchedResponse s.cfg s.inp sba sbb (bitwise fun L a b => notWithin L (a ^^^ b)))

/-- MAP: any 2-input boolean function of the operands' bits (45_bitwise.md R251). -/
def execMap (tt : TruthTable) (sba sbb : SignField) (s : State) : Host.Outcome State Fault Refusal :=
  reply s (matchedResponse s.cfg s.inp sba sbb (bitwise fun L a b => mapBits tt a b L))

end Sys2Proof.Machine
end

