-- ==== Sys2Proof/Machine/Compare.lean ====
section
/-! DEFINITION. The comparator: CMP (46_compare.md). -/

namespace Sys2Proof.Machine

/-- CMP: the order of the operands' values, sign behaviours mixed or not (46_compare.md R270 to R272). -/
def execCmp (sba sbb : SignField) (s : State) : Host.Outcome State Fault Refusal :=
  reply s (valueResponse s.cfg s.inp sba sbb)

end Sys2Proof.Machine
end

