-- ==== Sys2Proof/Machine/IncDec.lean ====
section
/-! DEFINITION. The increment/decrement unit: INC and DEC (43_incdec.md). -/

namespace Sys2Proof.Machine

/-- "add(value, zero, carry_in=1)" in the envelope (43_incdec.md R200). -/
def increment (sb : SignBehavior) (L : Nat) (a : Nat) : Nat × Bool :=
  envelope sb L a fun ta => kadd ta 0 true L

/-- "add(value, all-ones, carry_in=0)" in the envelope (43_incdec.md R201). -/
def decrement (sb : SignBehavior) (L : Nat) (a : Nat) : Nat × Bool :=
  envelope sb L a fun ta => kadd ta (mask L) false L

/-- INC (43_incdec.md R200). -/
def execInc (sba : SignField) (s : State) : Host.Outcome State Fault Refusal :=
  reply s (unaryResponse s.cfg s.inp sba increment)

/-- DEC (43_incdec.md R201). -/
def execDec (sba : SignField) (s : State) : Host.Outcome State Fault Refusal :=
  reply s (unaryResponse s.cfg s.inp sba decrement)

end Sys2Proof.Machine
end

