-- ==== Sys2Proof/Machine/Negate.lean ====
section
/-! DEFINITION. The arithmetic-negate unit: NEG (44_negate.md). It does not use the envelope. -/

namespace Sys2Proof.Machine

/-- Unsigned is "an explicit designed no-op", Magnitude flips the sign bit, and Signed negates, with `FO` only where the negation
does not fit (44_negate.md R220, R222). -/
def negate (sb : SignBehavior) (L : Nat) (a : Nat) : Nat × Bool :=
  match sb with
  | .unsigned => (a, false)
  | .signed => (neg L a, a == 2 ^ (L - 1))
  | .magnitude => (a ^^^ 2 ^ (L - 1), false)

/-- NEG (44_negate.md R220). -/
def execNeg (sba : SignField) (s : State) : Host.Outcome State Fault Refusal :=
  reply s (unaryResponse s.cfg s.inp sba negate)

end Sys2Proof.Machine
end

