-- ==== Sys2Proof/Machine/Subtractor.lean ====
section
/-! DEFINITION. The subtractor via negate: SUB (42_subtractor.md). -/

namespace Sys2Proof.Machine

/-- "add(a, ~b, carry_in=1)" in the envelope (42_subtractor.md R180). -/
def subtract (sb : SignBehavior) (L : Nat) (a b : Nat) : Nat × Bool :=
  envelope2 sb L a b fun ta tb => kadd ta (notWithin L tb) true L

/-- SUB: operand A less operand B (42_subtractor.md R180). -/
def execSub (sba sbb : SignField) (s : State) : Host.Outcome State Fault Refusal :=
  reply s (matchedResponse s.cfg s.inp sba sbb subtract)

end Sys2Proof.Machine
end

