-- ==== Sys2Proof/Machine/Dispatch.lean ====
section
/-! DEFINITION. One arm per instruction. -/

namespace Sys2Proof.Machine

def exec (i : Instr) (s : State) : Host.Outcome State Fault Refusal :=
  match i with
  | .add sba sbb => Sys2Proof.Machine.execAdd sba sbb s
  | .adc sba sbb => Sys2Proof.Machine.execAdc sba sbb s
  | .sub sba sbb => Sys2Proof.Machine.execSub sba sbb s
  | .inc sba => Sys2Proof.Machine.execInc sba s
  | .dec sba => Sys2Proof.Machine.execDec sba s
  | .neg sba => Sys2Proof.Machine.execNeg sba s
  | .and sba sbb => Sys2Proof.Machine.execAnd sba sbb s
  | .or sba sbb => Sys2Proof.Machine.execOr sba sbb s
  | .xor sba sbb => Sys2Proof.Machine.execXor sba sbb s
  | .nand sba sbb => Sys2Proof.Machine.execNand sba sbb s
  | .nor sba sbb => Sys2Proof.Machine.execNor sba sbb s
  | .xnor sba sbb => Sys2Proof.Machine.execXnor sba sbb s
  | .map tt sba sbb => Sys2Proof.Machine.execMap tt sba sbb s
  | .cmp sba sbb => Sys2Proof.Machine.execCmp sba sbb s

end Sys2Proof.Machine
end

