-- ==== Sys2Proof/Machine/Serve.lean ====
section
/-! DEFINITION. Answering the request on the input ports (00_scope.md R9; 30_encoding.md R91). -/

namespace Sys2Proof.Machine

/-- The answer to a control word that matches no operation (30_encoding.md R86, R92; 60_exceptions.md R302, R303). -/
def answerIllegal (s : State) : Host.Outcome State Fault Refusal := reply s (.err .illegal)

/-- Decoding is the first stage of the response (30_encoding.md R91). The block fetches nothing: the operation is the control word
of the request itself (10_state.md R32; 20_memory.md R68). -/
def serve (s : State) : Host.Outcome State Fault Refusal :=
  match decode s.inp.cw with
  | .ok i => exec i s
  | .error _ => answerIllegal s

/-- One request. While the inputs are not held stable the spec defines no response (70_reset_and_hazards.md R344). -/
def serveHeld (s : State) : Host.Outcome State Fault Refusal :=
  if s.held then serve s else .fault .inputsChanging

end Sys2Proof.Machine
end

