-- ==== Sys2Proof/Machine/Step.lean ====
section
/-! DEFINITION. One step is one request (00_scope.md R9). -/

namespace Sys2Proof.Machine

def step (s : State) : Host.Outcome State Fault Refusal := serveHeld s

/-- `s` with the instruction whose bits are `w` on `CW`, held there by the host: the next step runs it (log entry 8). -/
def State.withFetchWord (s : State) (nbits w : Nat) : State := s.driveWord (wordOfBits nbits w)

end Sys2Proof.Machine
end

