-- ==== Sys2Proof/Machine/Asm.lean ====
section
/-! DEFINITION. The host's notation for one request, as data: operand literals (30_encoding.md R96), request lines and their assembly
(R95), pseudo-instructions (R97) and listings (R99). -/

namespace Sys2Proof.Machine

/-- An operand literal: a pattern, not a signed value (30_encoding.md R96). -/
structure Literal where
  sb : SignBehavior
  width : Nat
  pattern : Nat
  deriving DecidableEq, Repr

/-- `1 <= n <= NMAX`, and "the pattern must be below `2^n`" (30_encoding.md R96). -/
def Literal.fits (c : Config) (l : Literal) : Bool :=
  decide (1 ≤ l.width) && decide (l.width ≤ c.nmax) && decide (l.pattern < 2 ^ l.width)

/-- The names of 30_encoding.md R82. -/
inductive Mnemonic where
  | add
  | adc
  | sub
  | inc
  | dec
  | neg
  | and
  | or
  | xor
  | nand
  | nor
  | xnor
  | map
  | cmp
  deriving DecidableEq, Repr

/-- The opcode of a name (30_encoding.md R82). -/
def Mnemonic.op : Mnemonic → BitVec 4
  | .add => 0x0#4
  | .adc => 0x1#4
  | .sub => 0x2#4
  | .inc => 0x3#4
  | .dec => 0x4#4
  | .neg => 0x5#4
  | .and => 0x6#4
  | .or => 0x7#4
  | .xor => 0x8#4
  | .nand => 0x9#4
  | .nor => 0xA#4
  | .xnor => 0xB#4
  | .map => 0xC#4
  | .cmp => 0xD#4

/-- INC, DEC and NEG are unary (30_encoding.md R82). -/
def Mnemonic.isUnary (m : Mnemonic) : Bool := m == .inc || m == .dec || m == .neg

/-- A request line, over the operands `α` and the carries `γ` that may stand in it (30_encoding.md R95). -/
structure AsmLine (α γ : Type) where
  op : Mnemonic
  tt : Option TruthTable
  a : α
  b : Option α
  cin : Option γ
  deriving DecidableEq, Repr

/-- `.tt` is written only on MAP, `opB` on binary operations and never on unary ones, `cin` only on ADC, where it is required
(30_encoding.md R95). That MAP requires its `.tt` is log entry 10. -/
def AsmLine.wellFormed {α γ : Type} (l : AsmLine α γ) : Bool :=
  l.tt.isSome == (l.op == .map) && l.b.isSome == !l.op.isUnary && l.cin.isSome == (l.op == .adc)

/-- The request that a line assembles to; `none` where the assembler rejects the line (30_encoding.md R95, R96). -/
def assemble (c : Config) (l : AsmLine Literal Bool) : Option Inputs :=
  if l.wellFormed && l.a.fits c && (l.b.map fun b => b.fits c).getD true then
    some
      { cw := packWord 0#4 ((l.b.map fun b => codeOfSign b.sb).getD 0#2) (codeOfSign l.a.sb) (l.tt.getD 0#4) l.op.op
        a := l.a.pattern
        wa := l.a.width
        b := (l.b.map fun b => b.pattern).getD 0
        wb := (l.b.map fun b => b.width).getD 0
        cin := l.cin.getD false }
  else none

/-- The pseudo-instructions of 30_encoding.md R97. -/
inductive Pseudo where
  | not
  | mov
  | clr
  | tst
  deriving DecidableEq, Repr

/-- The literal `<sb>1'b0`, with the sign letter of `x` (30_encoding.md R97). -/
def zeroLike (x : Literal) : Literal := { sb := x.sb, width := 1, pattern := 0 }

/-- The real request that a pseudo-instruction stands for (30_encoding.md R97). -/
def Pseudo.expand (p : Pseudo) (x : Literal) : AsmLine Literal Bool :=
  match p with
  | .not => { op := .map, tt := some 0x3#4, a := x, b := some (zeroLike x), cin := none }
  | .mov => { op := .or, tt := none, a := x, b := some (zeroLike x), cin := none }
  | .clr => { op := .xor, tt := none, a := x, b := some x, cin := none }
  | .tst => { op := .and, tt := none, a := x, b := some x, cin := none }

/-- One hexadecimal digit, in upper case as 30_encoding.md R99 writes it. -/
def hexDigit (v : Nat) : Char := Char.ofNat (if v < 10 then 48 + v else 55 + v)

/-- The `count` low hexadecimal digits of `v`, most significant first. -/
def hexDigits : Nat → Nat → List Char
  | 0, _ => []
  | count + 1, v => hexDigits count (v / 16) ++ [hexDigit (v % 16)]

/-- The digits that a listing gives a data port: those of its width, and more where the port holds a longer number
(30_encoding.md R99; log entry 11). -/
def portDigits (v : Nat) (w : Nat) : Nat := max 1 (max ((w + 3) / 4) (Nat.log2 v / 4 + 1))

/-- The listing of a request: `CW=0xHHHH A=<hex> WA=<dec> B=<hex> WB=<dec> CIN=<bit>` (30_encoding.md R99). -/
def listing (x : Inputs) : List Char :=
  "CW=0x".toList ++ hexDigits 4 x.cw.toNat ++ " A=0x".toList ++ hexDigits (portDigits x.a x.wa) x.a ++ " WA=".toList ++
    Nat.toDigits 10 x.wa ++ " B=0x".toList ++ hexDigits (portDigits x.b x.wb) x.b ++ " WB=".toList ++
    Nat.toDigits 10 x.wb ++ " CIN=".toList ++ (if x.cin then ['1'] else ['0'])

end Sys2Proof.Machine
end

