-- ==== Sys2Proof/Machine/Program.lean ====
section
/-! DEFINITION. The host's side: the block as a function of a request (00_scope.md R9), programs of named requests
(30_encoding.md R98), and wide sums by carry chaining (41_adder.md R163). The block has no program of its own (10_state.md R32): each
request below is one `step`. -/

namespace Sys2Proof.Machine

/-- `respond : Request -> Response` (00_scope.md R9): what the output ports show once the block has answered the request `x`. -/
def respond (c : Config) (x : Inputs) : Option Outputs :=
  match step ((State.resetAt c).drive x) with
  | .next t => some t.out
  | .fault _ => none
  | .refused _ => none

/-- An operand of a program: a literal, or `rK`, an earlier response (30_encoding.md R98). -/
inductive Operand where
  | lit (l : Literal)
  | ref (k : Nat)
  deriving DecidableEq, Repr

/-- The booleans that a program can name of a response: its flags and the three outcomes of `ORD` (30_encoding.md R98). -/
inductive NamedBool where
  | o
  | z
  | s
  | p
  | lt
  | eq
  | gt
  deriving DecidableEq, Repr

/-- A carry of a program: a bit, or a named boolean of an earlier response (30_encoding.md R95, R98). -/
inductive Carry where
  | bit (v : Bool)
  | ref (k : Nat) (f : NamedBool)
  deriving DecidableEq, Repr

/-- A request of a program: a line, or a pseudo-instruction (30_encoding.md R95, R97). -/
inductive ProgramRequest where
  | line (l : AsmLine Operand Carry)
  | pseudo (p : Pseudo) (x : Operand)
  deriving DecidableEq, Repr

/-- One step of a program: `rN: <request>`, or `rN: if rK.<flag> then <request> else rM` (30_encoding.md R98). -/
inductive ProgramStep where
  | issue (n : Nat) (q : ProgramRequest)
  | guarded (n k : Nat) (f : NamedBool) (q : ProgramRequest) (m : Nat)
  deriving DecidableEq, Repr

/-- The responses bound so far, the latest first. -/
abbrev Bindings := List (Nat × Outputs)

/-- The response bound to `rK`: the latest one under that name (log entry 9). -/
def lookupResponse : Bindings → Nat → Option Outputs
  | [], _ => none
  | (n, o) :: rest, k => if n = k then some o else lookupResponse rest k

/-- A named boolean of a response (30_encoding.md R98; 10_state.md R42). -/
def NamedBool.read (o : Outputs) : NamedBool → Bool
  | .o => o.fo
  | .z => o.fz
  | .s => o.fs
  | .p => o.fp
  | .lt => o.ord == 1#2
  | .eq => o.ord == 0#2
  | .gt => o.ord == 2#2

/-- An operand as a literal: `rK` is pattern `R`, width `WR` and sign behaviour `SBR` of that response (30_encoding.md R98). -/
def Operand.resolve (env : Bindings) : Operand → Option Literal
  | .lit l => some l
  | .ref k =>
    match lookupResponse env k with
    | none => none
    | some o =>
      match signOfField (signFieldOfCode o.sbr) with
      | none => none
      | some sb => some { sb := sb, width := o.wr, pattern := o.r }

/-- A carry as a bit (30_encoding.md R98). -/
def Carry.resolve (env : Bindings) : Carry → Option Bool
  | .bit v => some v
  | .ref k f =>
    match lookupResponse env k with
    | none => none
    | some o => some (f.read o)

/-- An operand or a carry that may be absent. -/
def resolveOptional {α β : Type} (f : α → Option β) : Option α → Option (Option β)
  | none => some none
  | some x =>
    match f x with
    | none => none
    | some y => some (some y)

/-- A program's line with its references replaced by what they name. -/
def resolveLine (env : Bindings) (l : AsmLine Operand Carry) : Option (AsmLine Literal Bool) :=
  match l.a.resolve env, resolveOptional (Operand.resolve env) l.b, resolveOptional (Carry.resolve env) l.cin with
  | some a, some b, some cin => some { op := l.op, tt := l.tt, a := a, b := b, cin := cin }
  | _, _, _ => none

/-- A program's request as a line of literals: a pseudo-instruction is expanded with its operand's sign letter
(30_encoding.md R97). -/
def ProgramRequest.resolve (env : Bindings) : ProgramRequest → Option (AsmLine Literal Bool)
  | .line l => resolveLine env l
  | .pseudo p x =>
    match x.resolve env with
    | none => none
    | some v => some (p.expand v)

/-- How a program ends (30_encoding.md R98). Where a step cannot be carried out, because the
request to be issued is rejected by the assembler or a response that the step needs is not bound, the host stops there too (log
entry 9). -/
inductive Ending where
  | finished
  | stopped (n : Nat) (err : ErrField)
  | notAProgram (n : Nat)
  deriving DecidableEq, Repr

/-- The host issues one request: it drives the input ports and lets the block answer. -/
def issueRequest (env : Bindings) (q : ProgramRequest) (s : State) : Option State :=
  match q.resolve env with
  | none => none
  | some l =>
    match assemble s.cfg l with
    | none => none
    | some x =>
      match step (s.drive x) with
      | .next t => some t
      | .fault _ => none
      | .refused _ => none

/-- One step of a program: the block after it, the name it binds and the response bound; `none` where the step cannot be carried out
(log entry 9). A guarded step issues its request where the named boolean is 1, and otherwise issues nothing and binds `rM`
(30_encoding.md R98). DESIGN CHOICE (log entry 9): R98 is silent on a guarded step whose branch not taken is invalid; that branch is
not looked at, so the step runs, whether `rM` is unbound while the boolean is 1, or the request names an unbound response or is
rejected by the assembler while it is 0. -/
def ProgramStep.run (env : Bindings) (s : State) : ProgramStep → Option (State × Nat × Outputs)
  | .issue n q =>
    match issueRequest env q s with
    | none => none
    | some t => some (t, n, t.out)
  | .guarded n k f q m =>
    match lookupResponse env k with
    | none => none
    | some o =>
      if f.read o then
        match issueRequest env q s with
        | none => none
        | some t => some (t, n, t.out)
      else
        match lookupResponse env m with
        | none => none
        | some r => some (s, n, r)

/-- The name that a step binds. -/
def ProgramStep.name : ProgramStep → Nat
  | .issue n _ => n
  | .guarded n _ _ _ _ => n

/-- A program run in order from the bindings `env`: "If any response is `Err`, the program stops there with that error"
(30_encoding.md R98). -/
def runProgram : List ProgramStep → State → Bindings → State × Bindings × Ending
  | [], s, env => (s, env, .finished)
  | p :: rest, s, env =>
    match p.run env s with
    | none => (s, env, .notAProgram p.name)
    | some (t, n, o) => if o.err = 0#3 then runProgram rest t ((n, o) :: env) else (t, env, .stopped n o.err)

/-- The request that adds one chunk of `m` bits (41_adder.md R163). -/
def chunkRequest (op : Mnemonic) (sb : SignBehavior) (m : Nat) (x y : Nat) (cin : Bool) : Inputs :=
  { cw := packWord 0#4 (codeOfSign sb) (codeOfSign sb) 0#4 op.op, a := x, wa := m, b := y, wb := m, cin := cin }

/-- The higher chunks of a chained sum, each by ADC with the previous response's `FO` as its carry in: the result chunks, low to high,
and the last `FO`; `none` if a response is an error (41_adder.md R163). -/
def chainHigher (c : Config) (sb : SignBehavior) (m : Nat) : Bool → List (Nat × Nat) → Option (List Nat × Bool)
  | carry, [] => some ([], carry)
  | carry, (x, y) :: rest =>
    match respond c (chunkRequest .adc sb m x y carry) with
    | none => none
    | some o =>
      if o.err = 0#3 then
        match chainHigher c sb m o.fo rest with
        | none => none
        | some (rs, last) => some (o.r :: rs, last)
      else none

/-- A chained sum: the low chunks by ADD, each higher chunk by ADC (41_adder.md R163). -/
def chainAdd (c : Config) (sb : SignBehavior) (m : Nat) : List (Nat × Nat) → Option (List Nat × Bool)
  | [] => none
  | (x, y) :: rest =>
    match respond c (chunkRequest .add sb m x y false) with
    | none => none
    | some o =>
      if o.err = 0#3 then
        match chainHigher c sb m o.fo rest with
        | none => none
        | some (rs, last) => some (o.r :: rs, last)
      else none

/-- The `k` chunks of `m` bits of a number, low to high (41_adder.md R163). -/
def chunksOf (m : Nat) (k : Nat) (v : Nat) : List Nat := (List.range k).map fun i => v / 2 ^ (m * i) % 2 ^ m

/-- Chunks of `m` bits set together again, low to high (41_adder.md R163). -/
def joinChunks (m : Nat) : List Nat → Nat
  | [] => 0
  | r :: rest => r + 2 ^ m * joinChunks m rest

end Sys2Proof.Machine
end

