-- ==== Sys2Proof/Machine/AsmText.lean ====
section
/-! DEFINITION. The host's notation as text: reading a literal (30_encoding.md R96), a request line (R95) and a program step (R98). A text
that is not of the notation reads as `none`. What the rules leave open about spelling is log entry 10. -/

namespace Sys2Proof.Machine

/-- A text cut at every `c`. -/
def cutAt (c : Char) : List Char → List (List Char)
  | [] => [[]]
  | x :: rest =>
    if x = c then [] :: cutAt c rest
    else
      match cutAt c rest with
      | [] => [[x]]
      | part :: parts => (x :: part) :: parts

/-- The words of a text: what stands between spaces. -/
def wordsOf (text : List Char) : List (List Char) := (cutAt ' ' text).filter fun w => !w.isEmpty

/-- The value of a digit; letters in either case. -/
def digitValue (c : Char) : Option Nat :=
  let n := c.toNat
  if 48 ≤ n ∧ n ≤ 57 then some (n - 48)
  else if 65 ≤ n ∧ n ≤ 70 then some (n - 55)
  else if 97 ≤ n ∧ n ≤ 102 then some (n - 87)
  else none

/-- The number that digits of a base stand for, most significant first, after the digits read so far. -/
def numberFrom (base : Nat) : Nat → List Char → Option Nat
  | sofar, [] => some sofar
  | sofar, c :: rest =>
    match digitValue c with
    | none => none
    | some d => if d < base then numberFrom base (sofar * base + d) rest else none

/-- A number of at least one digit. -/
def readNumber (base : Nat) : List Char → Option Nat
  | [] => none
  | c :: rest => numberFrom base 0 (c :: rest)

/-- `<sb>`: `u`, `s` or `m` (30_encoding.md R96). -/
def readSign (c : Char) : Option SignBehavior :=
  if c = 'u' then some .unsigned else if c = 's' then some .signed else if c = 'm' then some .magnitude else none

/-- `<base>`: `b` or `h` (30_encoding.md R96). -/
def readBase (c : Char) : Option Nat := if c = 'b' then some 2 else if c = 'h' then some 16 else none

/-- `<sb><n>'<base><digits>` (30_encoding.md R96): underscores "may separate digits and are ignored". DESIGN CHOICE (log entry 10): the
rule does not say whether an underscore may lead, trail or be doubled among the digits (`u4'b_1`, `u4'b1_`, `u4'b1__0`); every one
is ignored, so all of these are read. A literal with underscores and no digit is none, and the width takes no underscore. -/
def readLiteral : List Char → Option Literal
  | [] => none
  | c :: rest =>
    match readSign c, cutAt '\'' rest with
    | some sb, [width, base :: digits] =>
      match readNumber 10 width, readBase base with
      | some n, some radix =>
        match readNumber radix (digits.filter fun d => d != '_') with
        | some v => some { sb := sb, width := n, pattern := v }
        | none => none
      | _, _ => none
    | _, _ => none

/-- The name `rK` of a response (30_encoding.md R98). -/
def readName : List Char → Option Nat
  | [] => none
  | c :: rest => if c = 'r' then readNumber 10 rest else none

/-- An operand: `rK` or a literal (30_encoding.md R96, R98). -/
def readOperand (text : List Char) : Option Operand :=
  match readName text with
  | some k => some (.ref k)
  | none =>
    match readLiteral text with
    | some l => some (.lit l)
    | none => none

/-- The flags and outcomes of 30_encoding.md R98. -/
def readNamedBool (text : List Char) : Option NamedBool :=
  if text = "O".toList then some .o
  else if text = "Z".toList then some .z
  else if text = "S".toList then some .s
  else if text = "P".toList then some .p
  else if text = "LT".toList then some .lt
  else if text = "EQ".toList then some .eq
  else if text = "GT".toList then some .gt
  else none

/-- `rK.<flag>` (30_encoding.md R98). -/
def readFlagRef (text : List Char) : Option (Nat × NamedBool) :=
  match cutAt '.' text with
  | [name, flag] =>
    match readName name, readNamedBool flag with
    | some k, some f => some (k, f)
    | _, _ => none
  | _ => none

/-- `cin=C`, with `C` a bit or a flag reference (30_encoding.md R95). DESIGN CHOICE (log entry 10): any named boolean of R98 may stand
there, an `ORD` outcome too. -/
def readCarry (text : List Char) : Option Carry :=
  match cutAt '=' text with
  | [key, value] =>
    if key = "cin".toList then
      if value = "0".toList then some (.bit false)
      else if value = "1".toList then some (.bit true)
      else
        match readFlagRef value with
        | some (k, f) => some (.ref k f)
        | none => none
    else none
  | _ => none

/-- The names of 30_encoding.md R82, "in upper case" (R95). -/
def readMnemonic (text : List Char) : Option Mnemonic :=
  if text = "ADD".toList then some .add
  else if text = "ADC".toList then some .adc
  else if text = "SUB".toList then some .sub
  else if text = "INC".toList then some .inc
  else if text = "DEC".toList then some .dec
  else if text = "NEG".toList then some .neg
  else if text = "AND".toList then some .and
  else if text = "OR".toList then some .or
  else if text = "XOR".toList then some .xor
  else if text = "NAND".toList then some .nand
  else if text = "NOR".toList then some .nor
  else if text = "XNOR".toList then some .xnor
  else if text = "MAP".toList then some .map
  else if text = "CMP".toList then some .cmp
  else none

/-- The names of 30_encoding.md R97. -/
def readPseudo (text : List Char) : Option Pseudo :=
  if text = "NOT".toList then some .not
  else if text = "MOV".toList then some .mov
  else if text = "CLR".toList then some .clr
  else if text = "TST".toList then some .tst
  else none

/-- `tt=0xH`, one hex digit (30_encoding.md R95). -/
def readTruthTable : List Char → Option TruthTable
  | ['t', 't', '=', '0', 'x', h] =>
    match digitValue h with
    | some v => some (BitVec.ofNat 4 v)
    | none => none
  | _ => none

/-- `MNEMONIC[.tt=0xH]` (30_encoding.md R95). -/
def readHead (text : List Char) : Option (Mnemonic × Option TruthTable) :=
  match cutAt '.' text with
  | [name] =>
    match readMnemonic name with
    | some m => some (m, none)
    | none => none
  | [name, table] =>
    match readMnemonic name, readTruthTable table with
    | some m, some tt => some (m, some tt)
    | _, _ => none
  | _ => none

/-- What may follow the first operand: `opB`, `cin=C`, both, or nothing (30_encoding.md R95). -/
def readTail : List (List (List Char)) → Option (Option Operand × Option Carry)
  | [] => some (none, none)
  | [[x]] =>
    match readCarry x with
    | some c => some (none, some c)
    | none =>
      match readOperand x with
      | some b => some (some b, none)
      | none => none
  | [[x], [y]] =>
    match readOperand x, readCarry y with
    | some b, some c => some (some b, some c)
    | _, _ => none
  | _ => none

/-- A request, as the words of each part between commas (30_encoding.md R95, R97). -/
def readParts : List (List (List Char)) → Option ProgramRequest
  | [head, a] :: tail =>
    match readOperand a with
    | none => none
    | some opA =>
      match readPseudo head with
      | some p => if tail.isEmpty then some (.pseudo p opA) else none
      | none =>
        match readHead head, readTail tail with
        | some (m, tt), some (b, cin) =>
          let l : AsmLine Operand Carry := { op := m, tt := tt, a := opA, b := b, cin := cin }
          if l.wellFormed then some (.line l) else none
        | _, _ => none
  | _ => none

/-- `MNEMONIC[.tt=0xH]  opA [, opB] [, cin=C]`, or a pseudo-instruction and its operand (30_encoding.md R95, R97). -/
def readRequest (text : List Char) : Option ProgramRequest := readParts ((cutAt ',' text).map wordsOf)

/-- Words set together again with single spaces. -/
def joinWords : List (List Char) → List Char
  | [] => []
  | w :: rest => w ++ ' ' :: joinWords rest

/-- The words before the last two, and the last two. -/
def splitLastTwo : List (List Char) → Option (List (List Char) × List Char × List Char)
  | [] => none
  | [_] => none
  | [x, y] => some ([], x, y)
  | x :: y :: z :: rest =>
    match splitLastTwo (y :: z :: rest) with
    | some (before, u, v) => some (x :: before, u, v)
    | none => none

/-- The part of a program step after its name: a request, or the guarded form (30_encoding.md R98). -/
def readStepBody (n : Nat) (text : List Char) : Option ProgramStep :=
  match wordsOf text with
  | first :: flag :: thenWord :: rest =>
    if first = "if".toList ∧ thenWord = "then".toList then
      match readFlagRef flag, splitLastTwo rest with
      | some (k, f), some (request, elseWord, other) =>
        if elseWord = "else".toList then
          match readRequest (joinWords request), readName other with
          | some q, some m => some (.guarded n k f q m)
          | _, _ => none
        else none
      | _, _ => none
    else
      match readRequest text with
      | some q => some (.issue n q)
      | none => none
  | _ =>
    match readRequest text with
    | some q => some (.issue n q)
    | none => none

/-- `rN: <request>` or `rN: if rK.<flag> then <request> else rM` (30_encoding.md R98). -/
def readStep (text : List Char) : Option ProgramStep :=
  match cutAt ':' text with
  | [name, body] =>
    match wordsOf name with
    | [w] =>
      match readName w with
      | some n => readStepBody n body
      | none => none
    | _ => none
  | _ => none

end Sys2Proof.Machine
end

