-- ==== Sys2Proof/WellFormed.lean ====
section
/-! DEFINITION. Well-formed instructions: those whose control word can be answered with a success. The two checks are the ones
that 60_exceptions.md R308 makes on the control word after decoding (log entry 12). An ill-formed instruction still decodes
and still runs: it is answered with the error response of its first failing check. -/

namespace Sys2Proof

/-- CMP, the one binary operation that allows mixed sign behaviours (46_compare.md R271). -/
def Instr.isCmp : Instr → Bool
  | .cmp _ _ => true
  | .add _ _ => false
  | .adc _ _ => false
  | .sub _ _ => false
  | .inc _ => false
  | .dec _ => false
  | .neg _ => false
  | .and _ _ => false
  | .or _ _ => false
  | .xor _ _ => false
  | .nand _ _ => false
  | .nor _ _ => false
  | .xnor _ _ => false
  | .map _ _ _ => false

/-- No sign-behaviour field that the operation uses holds the reserved code (60_exceptions.md R304, R305). -/
def Instr.signsLegal (i : Instr) : Bool :=
  i.sba != .reserved && i.sbb? != some .reserved

/-- A two-operand arithmetic or bitwise operation has one sign behaviour (60_exceptions.md R307). -/
def Instr.signsAgree (i : Instr) : Bool :=
  i.isCmp || i.sbb? == none || i.sbb? == some i.sba

def Instr.wf (i : Instr) : Bool := i.signsLegal && i.signsAgree

end Sys2Proof
end

