-- ==== Sys2Proof/Safety.lean ====
section
/-! DEFINITION. What a claim can say of a state: its ports hold what ports can hold, its outputs are a legal response, its last request
was answered with a success; and the checks of 60_exceptions.md R308 read off the raw ports. -/

namespace Sys2Proof.Machine

/-- The input ports hold what ports of their widths can hold (10_state.md R34). -/
abbrev Inputs.fit (c : Config) (x : Inputs) : Prop :=
  x.a < 2 ^ c.nmax ∧ x.wa < 2 ^ c.wbits ∧ x.b < 2 ^ c.nmax ∧ x.wb < 2 ^ c.wbits

/-- The outputs of a success (10_state.md R35, R36, R39, R42). -/
abbrev Outputs.success (c : Config) (o : Outputs) : Prop :=
  o.err = 0#3 ∧ 1 ≤ o.wr ∧ o.wr ≤ c.nmax ∧ o.r < 2 ^ o.wr ∧ o.sbr ≠ 3#2 ∧ o.ord ≠ 3#2

/-- The outputs of an error response with one of the codes 1 to 4 (60_exceptions.md R300, R301). -/
abbrev Outputs.failure (o : Outputs) : Prop :=
  1 ≤ o.err.toNat ∧ o.err.toNat ≤ 4 ∧ o = errorOutputs o.err

/-- The outputs are a response that the block can give. -/
abbrev Outputs.legal (c : Config) (o : Outputs) : Prop := o.success c ∨ o.failure

/-- The invariant of the machine: `NMAX >= 1`, the input ports hold what they can hold, and the outputs are a legal response. -/
abbrev State.wf (s : State) : Prop := s.cfg.wf ∧ s.inp.fit s.cfg ∧ s.out.legal s.cfg

/-- The last request was answered with a success: no consumer treats it as a fault (10_state.md R43). -/
abbrev State.answered (s : State) : Prop := s.out.err = 0#3

/-- `OP` names a binary operation (30_encoding.md R82). -/
def binaryOpcode (op : BitVec 4) : Bool := op != 0x3#4 && op != 0x4#4 && op != 0x5#4

/-- `ERR` by the procedure of 60_exceptions.md R308, with the decoder of 30_encoding.md R91, read off the raw ports `CW`, `WA` and
`WB`. It is written apart from `decode` and from the meanings' own checks, so that a claim can hold one against the other. -/
def portCheck (c : Config) (cw : ControlWord) (wa wb : Nat) : ErrField :=
  if topField cw ≠ 0#4 then 1#3
  else if opField cw = 0xE#4 ∨ opField cw = 0xF#4 then 1#3
  else if opField cw ≠ 0xC#4 ∧ ttField cw ≠ 0#4 then 1#3
  else if binaryOpcode (opField cw) = false ∧ sbbField cw ≠ 0#2 then 1#3
  else if sbaField cw = 3#2 then 2#3
  else if binaryOpcode (opField cw) ∧ sbbField cw = 3#2 then 2#3
  else if c.nmax < wa then 3#3
  else if binaryOpcode (opField cw) ∧ c.nmax < wb then 3#3
  else if binaryOpcode (opField cw) ∧ opField cw ≠ 0xD#4 ∧ sbaField cw ≠ sbbField cw then 4#3
  else 0#3

/-- The output ports of a success other than CMP's, with the result `r` at the width `L` and the overflow `o`: `FZ`, `FS` and `FP` are
read on the bits of `r` (40_datapath.md R150 to R152; 10_state.md R42). -/
def successOutputs (sb : SignBehavior) (L : Nat) (r : Nat) (o : Bool) : Outputs :=
  { err := 0#3, r := r, wr := L, sbr := codeOfSign sb, fo := o, fz := r == 0, fs := r.testBit (L - 1), fp := r.testBit 0,
    ord := 0#2 }

/-- The output ports of a comparison of the values `va` and `vb` (46_compare.md R270, R272). -/
def comparedOutputs (va vb : Int) : Outputs :=
  { err := 0#3, r := 0, wr := 1, sbr := 0#2, fo := false, fz := va == vb, fs := decide (va < vb), fp := false,
    ord := if va = vb then 0#2 else if va < vb then 1#2 else 2#2 }

/-- Both width ports hold at most `NMAX` (30_encoding.md R89). -/
abbrev Inputs.widthsFit (c : Config) (x : Inputs) : Prop := x.wa ≤ c.nmax ∧ x.wb ≤ c.nmax

/-- The request with its operands exchanged. -/
def Inputs.swapped (x : Inputs) : Inputs := { x with a := x.b, wa := x.wb, b := x.a, wb := x.wa }

/-- `ORD` of the comparison of one pattern with another (46_compare.md R270). -/
def ordOf (c : Config) (a : Nat) (wa : Nat) (sa : SignBehavior) (b : Nat) (wb : Nat) (sb : SignBehavior) : Option Code2 :=
  (respond c { cw := encode (.cmp (fieldOfSign sa) (fieldOfSign sb)), a := a, wa := wa, b := b, wb := wb, cin := false }).map
    fun o => o.ord

/-- A value within the range of a sign behaviour at width `n` (10_state.md R37). -/
abbrev inRange (z : Int) (n : Nat) : SignBehavior → Prop
  | .unsigned => 0 ≤ z ∧ z ≤ 2 ^ n - 1
  | .signed => -(2 ^ (n - 1)) ≤ z ∧ z ≤ 2 ^ (n - 1) - 1
  | .magnitude => -(2 ^ (n - 1) - 1) ≤ z ∧ z ≤ 2 ^ (n - 1) - 1

end Sys2Proof.Machine
end

