-- ==== Sys2Proof/Certificates/Slice0/Obligations.lean ====
section
/-! DEFINITION. The statements for the provers. Each docstring names the rule it formalises. A request's operands are
`operandA` and `operandB`, its working width `unaryWidth` or `binaryWidth`, the names its meaning uses. -/

open Sys2Proof Sys2Proof.Machine

/-! ### Encoding -/

/-- No bit of an encoding is dropped: every instruction, with every field at every value (30_encoding.md R81 to R86). -/
def Obligations.DecodeEncodeRoundTrip : Prop := ∀ i : Instr, decode (encode i) = .ok i

/-- Each word has one meaning: a word that decodes is the word of what it decodes to (30_encoding.md R86, R91). -/
def Obligations.EncodeOfDecodedWord : Prop := ∀ (cw : ControlWord) (i : Instr), decode cw = .ok i → encode i = cw

/-- 30_encoding.md R86: a word decodes exactly where it fits a row of the table, to that row's operation; no word fits two rows; a
word that fits none is answered `Err(ILLEGAL)`. -/
def Obligations.OpcodeTableIsTheDecoder : Prop :=
  ∀ cw : ControlWord,
    (∀ row ∈ opcodeTable, row.fits cw = true → ∃ i, decode cw = .ok i ∧ opOfInstr i = row.op) ∧
    (∀ i, decode cw = .ok i → ∃ row ∈ opcodeTable, row.fits cw = true ∧ row.op = opOfInstr i) ∧
    (∀ r₁ ∈ opcodeTable, ∀ r₂ ∈ opcodeTable, r₁.fits cw = true → r₂.fits cw = true → r₁ = r₂) ∧
    (∀ s : State, s.held = true → s.inp.cw = cw → (∀ row ∈ opcodeTable, row.fits cw = false) →
      step s = .next (s.raise .illegal))

/-- Words written out from the layout of 30_encoding.md R81, a word or more of each family, and one of each reason to refuse. -/
def Obligations.SampleWordsDecode : Prop :=
  decode 0b0000000000000000#16 = .ok (.add .unsigned .unsigned) ∧
  decode 0b0000101000000001#16 = .ok (.adc .magnitude .magnitude) ∧
  decode 0b0000010100000010#16 = .ok (.sub .signed .signed) ∧
  decode 0b0000000100000011#16 = .ok (.inc .signed) ∧
  decode 0b0000001000000100#16 = .ok (.dec .magnitude) ∧
  decode 0b0000000000000101#16 = .ok (.neg .unsigned) ∧
  decode 0b0000111100001001#16 = .ok (.nand .reserved .reserved) ∧
  decode 0b0000010111001100#16 = .ok (.map 0b1100#4 .signed .signed) ∧
  decode 0b0000011000001101#16 = .ok (.cmp .magnitude .signed) ∧
  decode 0b0001000000000000#16 = .error .topBits ∧
  decode 0b0000000000001110#16 = .error .reservedOpcode ∧
  decode 0b0000000000001111#16 = .error .reservedOpcode ∧
  decode 0b0000000000010000#16 = .error .truthTable ∧
  decode 0b0000010000000011#16 = .error .unarySignB

/-- 10_state.md R43: the abstract and the port form of a response map one to one. -/
def Obligations.ResponseFormsOneToOne : Prop :=
  (∀ r : Response, r.ports.response? = some r) ∧
  (∀ (o : Outputs) (r : Response), o.response? = some r → r.ports = o)

/-- 00_scope.md R11: bit `i` is bit `i mod 8` of byte `floor(i/8)`. -/
def Obligations.BytesAreLittleEndian : Prop :=
  ∀ (v : Nat) (i : Nat), (byteAt v (i / 8)).testBit (i % 8) = v.testBit i

/-- 00_scope.md R7: `WBITS` is the number of bits needed to write `NMAX` in binary, so a width port can hold every legal width. -/
def Obligations.WidthPortsHoldNmax : Prop :=
  ∀ c : Config, c.wf → c.nmax < 2 ^ c.wbits ∧ 2 ^ (c.wbits - 1) ≤ c.nmax

/-! ### One step -/

/-- Where the word on `CW` decodes, a step is that instruction's meaning and nothing else (30_encoding.md R91). -/
def Obligations.StepRunsDecodedInstruction : Prop :=
  ∀ (s : State) (i : Instr), s.held = true → decode s.inp.cw = .ok i → step s = exec i s

/-- While the inputs are not held stable, no response is defined (70_reset_and_hazards.md R344). -/
def Obligations.InputsChangingStops : Prop := ∀ s : State, s.held = false → step s = .fault .inputsChanging

/-- The frame of every instruction, on every state: it answers, and only the output ports change (20_memory.md R63, R64). -/
def Obligations.ExecChangesOutputsOnly : Prop :=
  ∀ (i : Instr) (s : State), ∃ o : Outputs, exec i s = .next { s with out := o }

/-- 10_state.md R30: whatever the state before (earlier responses among it), a request is answered by a function of that request. -/
def Obligations.NothingSurvivesARequest : Prop :=
  ∀ (s : State) (x : Inputs), ∃ t : State, step (s.drive x) = .next t ∧ respond s.cfg x = some t.out

/-- 20_memory.md R64: a request leaves its operands alone, and repeating it yields the same response. -/
def Obligations.RepeatingARequest : Prop :=
  ∀ s t : State, step s = .next t → t.inp = s.inp ∧ step t = .next t

/-- 30_encoding.md R87: what an operation does not read cannot change its response. -/
def Obligations.UnusedInputsIgnored : Prop :=
  ∀ (i : Instr) (s t : State), exec i s = .next t →
    (∀ cin : Bool, (∀ sba sbb, i ≠ .adc sba sbb) →
      exec i { s with inp := { s.inp with cin := cin } } = .next { t with inp := { s.inp with cin := cin } }) ∧
    (∀ (b : Nat) (wb : Nat), i.isBinary = false →
      exec i { s with inp := { s.inp with b := b, wb := wb } } = .next { t with inp := { s.inp with b := b, wb := wb } })

/-- 40_datapath.md R121: the bits of a data port above its operand's width never reach a result or a flag. -/
def Obligations.StrayBitsIgnored : Prop :=
  (∀ (x : Inputs) (k : Nat),
    (operandA x).testBit k = (decide (k < normWidth x.wa) && x.a.testBit k) ∧
    (operandB x).testBit k = (decide (k < normWidth x.wb) && x.b.testBit k)) ∧
  (∀ (i : Instr) (s t : State) (a b : Nat), exec i s = .next t →
    (∀ k < normWidth s.inp.wa, a.testBit k = s.inp.a.testBit k) → (∀ k < normWidth s.inp.wb, b.testBit k = s.inp.b.testBit k) →
    exec i { s with inp := { s.inp with a := a, b := b } } = .next { t with inp := { s.inp with a := a, b := b } })

/-- 40_datapath.md R120: a width of 0 is read as 1, on either width port. -/
def Obligations.ZeroWidthReadsAsOne : Prop :=
  (∀ w : Nat, normWidth w = if w = 0 then 1 else w) ∧
  (∀ (i : Instr) (s t : State), s.cfg.wf → s.inp.wa = 0 → exec i s = .next t →
    exec i { s with inp := { s.inp with wa := 1 } } = .next { t with inp := { s.inp with wa := 1 } }) ∧
  (∀ (i : Instr) (s t : State), s.cfg.wf → s.inp.wb = 0 → exec i s = .next t →
    exec i { s with inp := { s.inp with wb := 1 } } = .next { t with inp := { s.inp with wb := 1 } })

/-- The invariant: from every state whose ports hold what ports can hold, a step gives such a state, with a legal response
(10_state.md R35, R39, R42; 60_exceptions.md R300, R301). -/
def Obligations.StepKeepsPortsLegal : Prop := ∀ s t : State, s.wf → step s = .next t → t.wf

/-- The reset state of every implementation meets the invariant. Its port values are the model's choice (log entries 3 and 4). -/
def Obligations.ResetPortsLegal : Prop := (∀ c : Config, c.wf → (State.resetAt c).wf) ∧ State.reset.wf

/-- From reset a step answers, and the outputs are already the response to the inputs. R341 of 70_reset_and_hazards.md says so of stable
inputs only: that they are stable at reset (`held = true`) is the model's choice (log entry 5), and so are the values on the ports
(log entries 3 and 4). -/
def Obligations.ResetOutputsAreTheResponse : Prop :=
  ∀ c : Config, step (State.resetAt c) = .next (State.resetAt c)

/-! ### Errors -/

/-- 60_exceptions.md R302 and R303: exactly these words are answered `Err(ILLEGAL)`. -/
def Obligations.IllegalWordsAnswered : Prop :=
  ∀ s : State, s.held = true →
    (step s = .next (s.raise .illegal) ↔
      topField s.inp.cw ≠ 0#4 ∨ opField s.inp.cw = 0xE#4 ∨ opField s.inp.cw = 0xF#4 ∨
      (ttField s.inp.cw ≠ 0#4 ∧ opField s.inp.cw ≠ 0xC#4) ∨
      (sbbField s.inp.cw ≠ 0#2 ∧ (opField s.inp.cw = 0x3#4 ∨ opField s.inp.cw = 0x4#4 ∨ opField s.inp.cw = 0x5#4)))

/-- 60_exceptions.md R304 and R305: a sign-behaviour field that the operation uses holds `11`. -/
def Obligations.ReservedSignAnswered : Prop :=
  ∀ (s : State) (i : Instr), s.held = true → decode s.inp.cw = .ok i →
    (step s = .next (s.raise .badSb) ↔
      sbaField s.inp.cw = 3#2 ∨
      (sbbField s.inp.cw = 3#2 ∧ opField s.inp.cw ≠ 0x3#4 ∧ opField s.inp.cw ≠ 0x4#4 ∧ opField s.inp.cw ≠ 0x5#4))

/-- 60_exceptions.md R306, where the earlier checks of R308 pass: a width port that the operation uses holds more than `NMAX`. -/
def Obligations.WideOperandAnswered : Prop :=
  ∀ (s : State) (i : Instr), s.held = true → decode s.inp.cw = .ok i → i.signsLegal = true →
    (step s = .next (s.raise .badWidth) ↔ s.cfg.nmax < s.inp.wa ∨ (i.isBinary = true ∧ s.cfg.nmax < s.inp.wb))

/-- 60_exceptions.md R307: mixed sign behaviours on a two-operand arithmetic or bitwise operation are always an error, and the error
is SIGN_MISMATCH where the earlier checks of R308 pass. CMP is never answered so. -/
def Obligations.MixedSignsAnswered : Prop :=
  ∀ (s : State) (i : Instr), s.held = true → decode s.inp.cw = .ok i →
    (∀ sbb, i.isCmp = false → i.sbb? = some sbb → i.sba ≠ sbb →
      ∃ t, step s = .next t ∧ t.out.err ≠ 0#3 ∧
        (i.signsLegal = true → s.inp.widthsFit s.cfg → t = s.raise .signMismatch)) ∧
    (i.isCmp = true → step s ≠ .next (s.raise .signMismatch))

/-- 60_exceptions.md R308: `ERR` is the first failing check's code in the order of the rule, and no operation runs on an error. -/
def Obligations.ErrFollowsCheckOrder : Prop :=
  ∀ s : State, s.held = true →
    ∃ t, step s = .next t ∧ t.out.err = portCheck s.cfg s.inp.cw s.inp.wa s.inp.wb ∧
      (t.out.err ≠ 0#3 → t.out = errorOutputs t.out.err)

/-- 60_exceptions.md R300: on an error every other output is 0, and the error has no other effect. -/
def Obligations.ErrorHasNoOtherEffect : Prop :=
  ∀ s t : State, step s = .next t → t.out.err ≠ 0#3 →
    t = { s with out := errorOutputs t.out.err } ∧ ∃ c : ErrCode, t = s.raise c ∧ t.out.response? = some (.err c)

/-- 60_exceptions.md R310: whether a request errs depends only on `CW`, `WA` and `WB`, and a request that passes the checks produces a
result whatever its data. -/
def Obligations.ErrorsIgnoreData : Prop :=
  (∀ s s' t t' : State, s.cfg = s'.cfg → s.inp.cw = s'.inp.cw → s.inp.wa = s'.inp.wa → s.inp.wb = s'.inp.wb →
    step s = .next t → step s' = .next t' → t.out.err = t'.out.err) ∧
  (∀ s : State, s.held = true → s.cfg.wf → portCheck s.cfg s.inp.cw s.inp.wa s.inp.wb = 0#3 →
    ∃ t, step s = .next t ∧ t.out.success s.cfg)

/-! ### Results of the instructions: each completes, on every state, wherever its checks pass -/

/-- ADD (41_adder.md R160): the exact sum in the envelope, cut to `L`; `FO` is the carry out of bit `L-1`. -/
def Obligations.AddResult : Prop :=
  ∀ (s : State) (sb : SignBehavior), s.inp.widthsFit s.cfg →
    let L := max (normWidth s.inp.wa) (normWidth s.inp.wb)
    let ta := toTC (operandA s.inp) L sb
    let tb := toTC (operandB s.inp) L sb
    exec (.add (fieldOfSign sb) (fieldOfSign sb)) s =
      .next { s with out := successOutputs sb L (fromTC (trunc L (ta + tb)) L sb) (decide (2 ^ L ≤ ta + tb)) }

/-- ADC (41_adder.md R161): as ADD, with `CIN` added. -/
def Obligations.AdcResult : Prop :=
  ∀ (s : State) (sb : SignBehavior), s.inp.widthsFit s.cfg →
    let L := max (normWidth s.inp.wa) (normWidth s.inp.wb)
    let ta := toTC (operandA s.inp) L sb
    let tb := toTC (operandB s.inp) L sb
    let sum := ta + tb + s.inp.cin.toNat
    exec (.adc (fieldOfSign sb) (fieldOfSign sb)) s =
      .next { s with out := successOutputs sb L (fromTC (trunc L sum) L sb) (decide (2 ^ L ≤ sum)) }

/-- SUB and its closed form (42_subtractor.md R181): `t = trunc_L(ta - tb)`, `FO = (ta >= tb)`; for Unsigned and Signed these are the
operands' own patterns; under Signed the value is the difference of the values wherever that is in range. -/
def Obligations.SubResult : Prop :=
  ∀ (s : State) (sb : SignBehavior), s.inp.widthsFit s.cfg →
    let L := max (normWidth s.inp.wa) (normWidth s.inp.wb)
    let a := operandA s.inp
    let b := operandB s.inp
    let ta := toTC a L sb
    let tb := toTC b L sb
    exec (.sub (fieldOfSign sb) (fieldOfSign sb)) s =
      .next { s with out := successOutputs sb L (fromTC (truncInt L ((ta : Int) - tb)) L sb) (decide (tb ≤ ta)) } ∧
    (sb ≠ .magnitude →
      exec (.sub (fieldOfSign sb) (fieldOfSign sb)) s =
        .next { s with out := successOutputs sb L (truncInt L ((a : Int) - b)) (decide (b ≤ a)) }) ∧
    (inRange (val a L .signed - val b L .signed) L .signed →
      val (truncInt L ((a : Int) - b)) L .signed = val a L .signed - val b L .signed)

/-- INC (43_incdec.md R200): `FO` only from the all-ones pattern. -/
def Obligations.IncResult : Prop :=
  ∀ (s : State) (sb : SignBehavior), s.inp.wa ≤ s.cfg.nmax →
    let L := normWidth s.inp.wa
    let ta := toTC (operandA s.inp) L sb
    exec (.inc (fieldOfSign sb)) s =
      .next { s with out := successOutputs sb L (fromTC (trunc L (ta + 1)) L sb) (ta == 2 ^ L - 1) }

/-- DEC (43_incdec.md R201): `FO` on every decrement except from zero. -/
def Obligations.DecResult : Prop :=
  ∀ (s : State) (sb : SignBehavior), s.inp.wa ≤ s.cfg.nmax →
    let L := normWidth s.inp.wa
    let ta := toTC (operandA s.inp) L sb
    exec (.dec (fieldOfSign sb)) s =
      .next { s with out := successOutputs sb L (fromTC (truncInt L ((ta : Int) - 1)) L sb) (ta != 0) }

/-- NEG (44_negate.md R220, R222). -/
def Obligations.NegResult : Prop :=
  ∀ s : State, s.inp.wa ≤ s.cfg.nmax →
    let L := normWidth s.inp.wa
    let a := operandA s.inp
    exec (.neg .unsigned) s = .next { s with out := successOutputs .unsigned L a false } ∧
    exec (.neg .signed) s =
      .next { s with out := successOutputs .signed L (truncInt L (-(a : Int))) (a == 2 ^ (L - 1)) } ∧
    exec (.neg .magnitude) s = .next { s with out := successOutputs .magnitude L (a ^^^ 2 ^ (L - 1)) false }

/-- The six named bitwise operations (45_bitwise.md R240 to R245, R250): `FO` is 0, and the complements stay within `L` bits. -/
def Obligations.BitwiseResults : Prop :=
  ∀ (s : State) (sb : SignBehavior), s.inp.widthsFit s.cfg →
    let L := max (normWidth s.inp.wa) (normWidth s.inp.wb)
    let a := operandA s.inp
    let b := operandB s.inp
    let f := fieldOfSign sb
    exec (.and f f) s = .next { s with out := successOutputs sb L (a &&& b) false } ∧
    exec (.or f f) s = .next { s with out := successOutputs sb L (a ||| b) false } ∧
    exec (.xor f f) s = .next { s with out := successOutputs sb L (a ^^^ b) false } ∧
    exec (.nand f f) s = .next { s with out := successOutputs sb L ((2 ^ L - 1) ^^^ (a &&& b)) false } ∧
    exec (.nor f f) s = .next { s with out := successOutputs sb L ((2 ^ L - 1) ^^^ (a ||| b)) false } ∧
    exec (.xnor f f) s = .next { s with out := successOutputs sb L ((2 ^ L - 1) ^^^ (a ^^^ b)) false }

/-- MAP (45_bitwise.md R251; 30_encoding.md R83): bit `i` of the result is `TT[2*a_i + b_i]`, and no bit at index `>= L` is set. -/
def Obligations.MapResult : Prop :=
  ∀ (s : State) (sb : SignBehavior) (tt : TruthTable), s.inp.widthsFit s.cfg →
    let L := max (normWidth s.inp.wa) (normWidth s.inp.wb)
    ∃ r : Nat,
      exec (.map tt (fieldOfSign sb) (fieldOfSign sb)) s = .next { s with out := successOutputs sb L r false } ∧
      ∀ i : Nat, r.testBit i =
        (decide (i < L) && tt.getLsbD (2 * ((operandA s.inp).testBit i).toNat + ((operandB s.inp).testBit i).toNat))

/-- 45_bitwise.md R252: MAP equals each named operation at one table value, on every state; its other rows are the functions the
table names. -/
def Obligations.MapAtTableValues : Prop :=
  (∀ (s : State) (sba sbb : SignField),
    exec (.map 0x8#4 sba sbb) s = exec (.and sba sbb) s ∧ exec (.map 0xE#4 sba sbb) s = exec (.or sba sbb) s ∧
    exec (.map 0x6#4 sba sbb) s = exec (.xor sba sbb) s ∧ exec (.map 0x7#4 sba sbb) s = exec (.nand sba sbb) s ∧
    exec (.map 0x1#4 sba sbb) s = exec (.nor sba sbb) s ∧ exec (.map 0x9#4 sba sbb) s = exec (.xnor sba sbb) s) ∧
  (∀ (s : State) (sb : SignBehavior), s.inp.widthsFit s.cfg →
    let L := max (normWidth s.inp.wa) (normWidth s.inp.wb)
    let a := operandA s.inp
    let b := operandB s.inp
    let f := fieldOfSign sb
    exec (.map 0x3#4 f f) s = .next { s with out := successOutputs sb L ((2 ^ L - 1) ^^^ a) false } ∧
    exec (.map 0xC#4 f f) s = .next { s with out := successOutputs sb L a false } ∧
    exec (.map 0xA#4 f f) s = .next { s with out := successOutputs sb L b false } ∧
    exec (.map 0x5#4 f f) s = .next { s with out := successOutputs sb L ((2 ^ L - 1) ^^^ b) false } ∧
    exec (.map 0x0#4 f f) s = .next { s with out := successOutputs sb L 0 false } ∧
    exec (.map 0xF#4 f f) s = .next { s with out := successOutputs sb L (2 ^ L - 1) false })

/-- CMP (46_compare.md R271, R272): it completes for every pair of sign behaviours, each operand read at its own width. -/
def Obligations.CmpResult : Prop :=
  ∀ (s : State) (sa sb : SignBehavior), s.inp.widthsFit s.cfg →
    exec (.cmp (fieldOfSign sa) (fieldOfSign sb)) s =
      .next { s with out :=
        comparedOutputs (val (operandA s.inp) (normWidth s.inp.wa) sa) (val (operandB s.inp) (normWidth s.inp.wb) sb) }

/-- 46_compare.md R273: width independence; a total order on values; different patterns, widths and behaviours can be equal. -/
def Obligations.CmpOrdersValues : Prop :=
  (∀ (c : Config) (sb : SignBehavior) (v : Int) (p₁ p₂ : Nat) (n₁ n₂ : Nat),
    1 ≤ n₁ → n₁ ≤ c.nmax → 1 ≤ n₂ → n₂ ≤ c.nmax → p₁ < 2 ^ n₁ → p₂ < 2 ^ n₂ → val p₁ n₁ sb = v → val p₂ n₂ sb = v →
    ordOf c p₁ n₁ sb p₂ n₂ sb = some 0#2) ∧
  (∀ (c : Config) (p : Nat) (n : Nat) (sb : SignBehavior), n ≤ c.nmax → ordOf c p n sb p n sb = some 0#2) ∧
  (∀ (c : Config) (p q : Nat) (n m : Nat) (sp sq : SignBehavior), n ≤ c.nmax → m ≤ c.nmax →
    (ordOf c p n sp q m sq = some 1#2 ↔ ordOf c q m sq p n sp = some 2#2) ∧
    (ordOf c p n sp q m sq = some 0#2 ↔ ordOf c q m sq p n sp = some 0#2) ∧
    (ordOf c p n sp q m sq = some 0#2 ∨ ordOf c p n sp q m sq = some 1#2 ∨ ordOf c p n sp q m sq = some 2#2)) ∧
  (∀ (c : Config) (p q r : Nat) (n m k : Nat) (sp sq sr : SignBehavior),
    ordOf c p n sp q m sq ≠ some 2#2 → ordOf c q m sq r k sr ≠ some 2#2 → n ≤ c.nmax → m ≤ c.nmax → k ≤ c.nmax →
    ordOf c p n sp r k sr ≠ some 2#2) ∧
  (∃ (c : Config) (p q : Nat) (n m : Nat) (sp sq : SignBehavior),
    p ≠ q ∧ n ≠ m ∧ sp ≠ sq ∧ ordOf c p n sp q m sq = some 0#2)

/-! ### Flags, widths and sign behaviours of every result -/

/-- 40_datapath.md R150 to R152: on every success but CMP's, `FZ`, `FS` and `FP` are read on the bits of `R`. -/
def Obligations.FlagsReadTheResult : Prop :=
  ∀ (i : Instr) (s t : State), i.isCmp = false → exec i s = .next t → t.out.err = 0#3 →
    t.out.fz = (t.out.r == 0) ∧ t.out.fs = t.out.r.testBit (t.out.wr - 1) ∧ t.out.fp = t.out.r.testBit 0

/-- 45_bitwise.md R250: all seven bitwise operations set `FO = 0` and take the other flags from `R`. -/
def Obligations.BitwiseOverflowIsZero : Prop :=
  ∀ (s t : State) (sba sbb : SignField) (tt : TruthTable) (i : Instr),
    (i = .and sba sbb ∨ i = .or sba sbb ∨ i = .xor sba sbb ∨ i = .nand sba sbb ∨ i = .nor sba sbb ∨ i = .xnor sba sbb ∨
      i = .map tt sba sbb) → exec i s = .next t → t.out.err = 0#3 →
    t.out.fo = false ∧ t.out.fz = (t.out.r == 0) ∧ t.out.fs = t.out.r.testBit (t.out.wr - 1) ∧ t.out.fp = t.out.r.testBit 0

/-- 40_datapath.md R126: `SBR = SBA`, which for a binary operation is `SBB`; for CMP `SBR = 00`. With it the result width of R122. -/
def Obligations.ResultWidthAndSign : Prop :=
  ∀ (i : Instr) (s t : State), exec i s = .next t → t.out.err = 0#3 →
    (i.isCmp = false → t.out.sbr = codeOfSignField i.sba ∧ (∀ sbb, i.sbb? = some sbb → t.out.sbr = codeOfSignField sbb) ∧
      t.out.wr = if i.isBinary then max (normWidth s.inp.wa) (normWidth s.inp.wb) else normWidth s.inp.wa) ∧
    (i.isCmp = true → t.out.sbr = 0#2 ∧ t.out.wr = 1)

/-- 10_state.md R39: every bit of `R` at index `>= WR` is 0. -/
def Obligations.MaskInvariant : Prop :=
  ∀ s t : State, step s = .next t → t.out.err = 0#3 →
    t.out.r < 2 ^ t.out.wr ∧ ∀ k : Nat, t.out.wr ≤ k → t.out.r.testBit k = false

/-! ### The datapath -/

/-- 40_datapath.md R142: the byte-serial adder is the exact sum modulo `2^L`, and its overflow is the carry out of bit `L-1`. -/
def Obligations.KernelAdderClosedForm : Prop :=
  ∀ (L : Nat) (a b : Nat) (cin : Bool), a < 2 ^ L → b < 2 ^ L →
    kadd a b cin L = (trunc L (a + b + cin.toNat), decide (2 ^ L ≤ a + b + cin.toNat))

/-- 40_datapath.md R141: the two causes of overflow, of which at most one can occur at a width. -/
def Obligations.KernelOverflowCauses : Prop :=
  ∀ (L : Nat) (a b : Nat) (cin : Bool), a < 2 ^ L → b < 2 ^ L →
    ((kadd a b cin L).2 = true ↔ kaddClipped a b cin L = true ∨ kaddCarry a b cin L = true) ∧
    (L % 8 ≠ 0 → kaddCarry a b cin L = false) ∧ (L % 8 = 0 → kaddClipped a b cin L = false)

/-- 40_datapath.md R143: the kernel's own zero and parity outputs equal the flag generator's `FZ` and `FP`. -/
def Obligations.KernelFlagsAgree : Prop :=
  ∀ (L : Nat) (a b : Nat) (cin o : Bool), a < 2 ^ L → b < 2 ^ L →
    kernelZero (kadd a b cin L).1 L = (resultFlags o (kadd a b cin L).1 L).z ∧
    kernelParity (kadd a b cin L).1 = (resultFlags o (kadd a b cin L).1 L).p

/-- 40_datapath.md R131: both branches of the negation give `trunc_n(2^n - x)`. -/
def Obligations.NegationClosedForm : Prop :=
  ∀ (n : Nat) (x : Nat), 1 ≤ n → x < 2 ^ n →
    (x.testBit (n - 1) = true → neg n x = notWithin n (kadd x (mask n) false n).1) ∧
    (x.testBit (n - 1) = false → neg n x = (kadd (notWithin n x) 0 true n).1) ∧
    neg n x = trunc n (2 ^ n - x) ∧ neg n 0 = 0 ∧ neg n (2 ^ (n - 1)) = 2 ^ (n - 1)

/-- 10_state.md R37: the range of values of each sign behaviour, each value reached, and the two Magnitude patterns of value 0. -/
def Obligations.ValueRanges : Prop :=
  ∀ n : Nat, 1 ≤ n →
    (∀ (sb : SignBehavior) (v : Nat), v < 2 ^ n → inRange (val v n sb) n sb) ∧
    (∀ (sb : SignBehavior) (z : Int), inRange z n sb → ∃ v, v < 2 ^ n ∧ val v n sb = z) ∧
    (∀ v : Nat, v < 2 ^ n → (val v n .magnitude = 0 ↔ v = 0 ∨ v = 2 ^ (n - 1)))

/-- 40_datapath.md R134 and R135: the Magnitude conversions keep the value, but for the most negative Signed value, which becomes -0. -/
def Obligations.ConversionsKeepValues : Prop :=
  ∀ (n : Nat) (x : Nat), 1 ≤ n → x < 2 ^ n →
    toTC x n .magnitude = (if x.testBit (n - 1) then neg n (x &&& mask (n - 1)) else x) ∧
    val (toTC x n .magnitude) n .signed = val x n .magnitude ∧
    toTC (2 ^ (n - 1)) n .magnitude = 0 ∧
    fromTC x n .magnitude = (if x.testBit (n - 1) then (neg n x &&& mask (n - 1)) ||| 2 ^ (n - 1) else x) ∧
    (x ≠ 2 ^ (n - 1) → val (fromTC x n .magnitude) n .magnitude = val x n .signed) ∧
    fromTC (2 ^ (n - 1)) n .magnitude = 2 ^ (n - 1) ∧ val (2 ^ (n - 1)) n .magnitude = 0

/-- 40_datapath.md R137: the laws of the conversions. -/
def Obligations.ConversionRoundTrips : Prop :=
  ∀ (n : Nat) (x : Nat) (sb : SignBehavior), 1 ≤ n → x < 2 ^ n →
    (fromTC (toTC x n sb) n sb = if sb = .magnitude ∧ x = 2 ^ (n - 1) then 0 else x) ∧
    (toTC (fromTC x n sb) n sb = if sb = .magnitude ∧ x = 2 ^ (n - 1) then 0 else x) ∧
    (x.testBit (n - 1) = false → toTC x n .magnitude = x ∧ fromTC x n .magnitude = x)

/-! ### Laws of the operations -/

/-- 44_negate.md R221: NEG negates the value, and applied twice is the identity. -/
def Obligations.NegNegatesTheValue : Prop :=
  ∀ (L : Nat) (a : Nat), 1 ≤ L → a < 2 ^ L →
    (negate .signed L a).1 = trunc L (2 ^ L - a) ∧
    (a ≠ 2 ^ (L - 1) → val (negate .signed L a).1 L .signed = -val a L .signed) ∧
    val (negate .magnitude L a).1 L .magnitude = -val a L .magnitude ∧
    ∀ sb, (negate sb L (negate sb L a).1).1 = a

/-- 42_subtractor.md R182: ADD undoes SUB, exactly for Unsigned and Signed, by value for Magnitude but where the difference is not
representable. The premise `NMAX >= 1` is part of the invariant of StepKeepsPortsLegal (00_scope.md R6). -/
def Obligations.AddUndoesSub : Prop :=
  ∀ (s : State) (sb : SignBehavior), s.cfg.wf → s.inp.widthsFit s.cfg →
    let L := max (normWidth s.inp.wa) (normWidth s.inp.wb)
    let a := operandA s.inp
    let ta := toTC a L sb
    let tb := toTC (operandB s.inp) L sb
    let f := fieldOfSign sb
    ∃ t u : State, exec (.sub f f) s = .next t ∧ t.out.err = 0#3 ∧
      exec (.add f f) (t.drive { s.inp with cw := encode (.add f f), a := t.out.r, wa := t.out.wr }) = .next u ∧
      u.out.err = 0#3 ∧ u.out.wr = L ∧
      (sb ≠ .magnitude → u.out.r = trunc L a) ∧
      (sb = .magnitude → truncInt L ((ta : Int) - tb) ≠ 2 ^ (L - 1) →
        val u.out.r L .magnitude = val a L .magnitude ∧ (a = 2 ^ (L - 1) → u.out.r = 0))

/-- 43_incdec.md R202: INC and DEC undo each other on their result patterns, and under Magnitude by value but for the two wrap cases. -/
def Obligations.IncDecUndoEachOther : Prop :=
  ∀ (L : Nat) (a : Nat), 1 ≤ L → a < 2 ^ L →
    (∀ sb, sb ≠ .magnitude →
      (decrement sb L (increment sb L a).1).1 = a ∧ (increment sb L (decrement sb L a).1).1 = a) ∧
    (trunc L (toTC a L .magnitude + 1) ≠ 2 ^ (L - 1) →
      val (decrement .magnitude L (increment .magnitude L a).1).1 L .magnitude = val a L .magnitude) ∧
    (truncInt L ((toTC a L .magnitude : Int) - 1) ≠ 2 ^ (L - 1) →
      val (increment .magnitude L (decrement .magnitude L a).1).1 L .magnitude = val a L .magnitude) ∧
    (2 ≤ L → (increment .magnitude L (2 ^ (L - 1) - 1)).1 = 2 ^ (L - 1) ∧ (decrement .magnitude L (2 ^ L - 1)).1 = 2 ^ (L - 1) ∧
      val (decrement .magnitude L (2 ^ (L - 1))).1 L .magnitude = -1 ∧
      val (increment .magnitude L (2 ^ (L - 1))).1 L .magnitude = 1 ∧
      (decrement .magnitude L (increment .magnitude L (2 ^ (L - 1))).1).1 = 0 ∧
      (increment .magnitude L (decrement .magnitude L (2 ^ (L - 1))).1).1 = 0)

/-- 41_adder.md R163: a wide sum of Unsigned or Signed numbers is the chained sum of their chunks, and the last `FO` is its carry
out; for Magnitude chaining does not hold. -/
def Obligations.ChainedAddition : Prop :=
  (∀ (c : Config) (sb : SignBehavior) (m k : Nat) (x y : Nat), sb ≠ .magnitude → 1 ≤ m → m ≤ c.nmax → 1 ≤ k →
    x < 2 ^ (m * k) → y < 2 ^ (m * k) →
    ∃ (rs : List Nat) (last : Bool),
      chainAdd c sb m ((chunksOf m k x).zip (chunksOf m k y)) = some (rs, last) ∧ rs.length = k ∧
      joinChunks m rs = trunc (m * k) (x + y) ∧ last = decide (2 ^ (m * k) ≤ x + y)) ∧
  (∃ (c : Config) (m k x y : Nat) (rs : List Nat) (last : Bool),
    1 ≤ m ∧ m ≤ c.nmax ∧ 1 ≤ k ∧ x < 2 ^ (m * k) ∧ y < 2 ^ (m * k) ∧
    chainAdd c .magnitude m ((chunksOf m k x).zip (chunksOf m k y)) = some (rs, last) ∧
    joinChunks m rs ≠ trunc (m * k) (x + y))

/-- Signed overflow can be told from the sign bits of equal-width operands (41_adder.md R164). -/
def Obligations.SignedOverflowFromSignBits : Prop :=
  ∀ (s t : State), s.inp.wa = s.inp.wb → exec (.add .signed .signed) s = .next t → t.out.err = 0#3 →
    let L := normWidth s.inp.wa
    let a := operandA s.inp
    let b := operandB s.inp
    ((a.testBit (L - 1) = b.testBit (L - 1) ∧ t.out.r.testBit (L - 1) ≠ a.testBit (L - 1)) ↔
      ¬ inRange (val a L .signed + val b L .signed) L .signed)

/-- Under Magnitude the five arithmetic operations act on values, wherever the result is in the Magnitude range (40_datapath.md R138;
41_adder.md R160; 42_subtractor.md R180; 43_incdec.md R200, R201). -/
def Obligations.MagnitudeArithmeticByValue : Prop :=
  ∀ (L : Nat) (a b : Nat) (cin : Bool), 1 ≤ L → a < 2 ^ L → b < 2 ^ L →
    let va := val a L .magnitude
    let vb := val b L .magnitude
    let c : Int := cin.toNat
    (inRange (va + vb + c) L .magnitude → val (addWithCarry cin .magnitude L a b).1 L .magnitude = va + vb + c) ∧
    (inRange (va - vb) L .magnitude → val (subtract .magnitude L a b).1 L .magnitude = va - vb) ∧
    (inRange (va + 1) L .magnitude → val (increment .magnitude L a).1 L .magnitude = va + 1) ∧
    (inRange (va - 1) L .magnitude → val (decrement .magnitude L a).1 L .magnitude = va - 1)

/-! ### The host's notation -/

/-- 30_encoding.md R97: what each pseudo-instruction's expansion does to a literal that the assembler accepts. -/
def Obligations.PseudoInstructionEffects : Prop :=
  ∀ (c : Config) (x : Literal), x.fits c = true →
    (assemble c (Pseudo.not.expand x)).bind (respond c) =
      some (successOutputs x.sb x.width ((2 ^ x.width - 1) ^^^ x.pattern) false) ∧
    (assemble c (Pseudo.mov.expand x)).bind (respond c) = some (successOutputs x.sb x.width x.pattern false) ∧
    (assemble c (Pseudo.clr.expand x)).bind (respond c) = some (successOutputs x.sb x.width 0 false) ∧
    (assemble c (Pseudo.tst.expand x)).bind (respond c) = some (successOutputs x.sb x.width x.pattern false)

/-- An assembled line drives legal ports with a word that decodes to its mnemonic's operation, and its only possible error is
SIGN_MISMATCH (30_encoding.md R95, R96; 60_exceptions.md R308). -/
def Obligations.AssembledLineIsLegal : Prop :=
  ∀ (c : Config) (l : AsmLine Literal Bool) (x : Inputs), assemble c l = some x →
    x.fit c ∧ (∃ i, decode x.cw = .ok i ∧ opOfInstr i = l.op.op ∧ i.signsLegal = true) ∧
    ∃ o, respond c x = some o ∧ (o.err = 0#3 ∨ o.err = 4#3)

/-- A program stops at its first error with that error, so every response it binds is a success (30_encoding.md R98). -/
def Obligations.ProgramStopsAtFirstError : Prop :=
  (∀ (p : ProgramStep) (rest : List ProgramStep) (s t : State) (env : Bindings) (n : Nat) (o : Outputs),
    p.run env s = some (t, n, o) → o.err ≠ 0#3 → runProgram (p :: rest) s env = (t, env, .stopped n o.err)) ∧
  (∀ (ps : List ProgramStep) (s : State) (env : Bindings), (∀ b ∈ env, b.2.err = 0#3) →
    ∀ b ∈ (runProgram ps s env).2.1, b.2.err = 0#3)

/-- The example of 30_encoding.md R99: the text of a line, its request, and its listing. -/
def Obligations.ListingExample : Prop :=
  ∃ (l : AsmLine Literal Bool) (x : Inputs),
    (readRequest "ADD u8'hFF, u8'h01".toList).bind (fun q => q.resolve []) = some l ∧
    assemble { nmax := 8 } l = some x ∧ listing x = "CW=0x0000 A=0xFF WA=8 B=0x01 WB=8 CIN=0".toList
end

