-- ==== Sys2Proof/Laws/State.lean ====
section
/-! SUPPORT. One lemma per field and update of State, so that no proof unfolds a record update. -/

namespace Sys2Proof.Machine

@[simp] theorem State.answer_cfg (s : State) (r : Response) : (s.answer r).cfg = s.cfg := rfl
@[simp] theorem State.answer_held (s : State) (r : Response) : (s.answer r).held = s.held := rfl
@[simp] theorem State.answer_inp (s : State) (r : Response) : (s.answer r).inp = s.inp := rfl
@[simp] theorem State.answer_out (s : State) (r : Response) : (s.answer r).out = r.ports := rfl
@[simp] theorem State.answer_answer (s : State) (r q : Response) : (s.answer r).answer q = s.answer q := rfl

@[simp] theorem State.raise_cfg (s : State) (c : ErrCode) : (s.raise c).cfg = s.cfg := rfl
@[simp] theorem State.raise_held (s : State) (c : ErrCode) : (s.raise c).held = s.held := rfl
@[simp] theorem State.raise_inp (s : State) (c : ErrCode) : (s.raise c).inp = s.inp := rfl
@[simp] theorem State.raise_out (s : State) (c : ErrCode) : (s.raise c).out = errorOutputs (errField c) := rfl

@[simp] theorem State.drive_cfg (s : State) (x : Inputs) : (s.drive x).cfg = s.cfg := rfl
@[simp] theorem State.drive_held (s : State) (x : Inputs) : (s.drive x).held = true := rfl
@[simp] theorem State.drive_inp (s : State) (x : Inputs) : (s.drive x).inp = x := rfl
@[simp] theorem State.drive_out (s : State) (x : Inputs) : (s.drive x).out = s.out := rfl

@[simp] theorem State.driveWord_cfg (s : State) (w : ControlWord) : (s.driveWord w).cfg = s.cfg := rfl
@[simp] theorem State.driveWord_held (s : State) (w : ControlWord) : (s.driveWord w).held = true := rfl
@[simp] theorem State.driveWord_inp (s : State) (w : ControlWord) : (s.driveWord w).inp = { s.inp with cw := w } := rfl
@[simp] theorem State.driveWord_out (s : State) (w : ControlWord) : (s.driveWord w).out = s.out := rfl

/-- Placing an instruction is driving its word. -/
@[simp] theorem State.withFetchWord_eq (s : State) (nbits w : Nat) :
    s.withFetchWord nbits w = s.driveWord (wordOfBits nbits w) := rfl

@[simp] theorem State.resetAt_cfg (c : Config) : (State.resetAt c).cfg = c := rfl
@[simp] theorem State.resetAt_held (c : Config) : (State.resetAt c).held = true := rfl
@[simp] theorem State.resetAt_inp (c : Config) : (State.resetAt c).inp = Inputs.reset := rfl
@[simp] theorem State.resetAt_out (c : Config) : (State.resetAt c).out = Outputs.reset := rfl

/-- Two states with the same four fields are the same state. -/
theorem State.eq_of_fields {s t : State} (hc : s.cfg = t.cfg) (hh : s.held = t.held) (hi : s.inp = t.inp)
    (ho : s.out = t.out) : s = t := by
  cases s; cases t; cases hc; cases hh; cases hi; cases ho; rfl

end Sys2Proof.Machine
end

