-- ==== Sys2Proof/Laws/Ops.lean ====
section
/-! SUPPORT. What presenting a response does. -/

namespace Sys2Proof.Machine

@[simp] theorem errField_ne_zero (c : ErrCode) : errField c ≠ 0#3 := by cases c <;> decide

theorem errField_range (c : ErrCode) : 1 ≤ (errField c).toNat ∧ (errField c).toNat ≤ 4 := by cases c <;> decide

theorem errField_injective {c d : ErrCode} (h : errField c = errField d) : c = d := by
  cases c <;> cases d <;> first | rfl | exact absurd h (by decide)

@[simp] theorem errCodeOfField_errField (c : ErrCode) : errCodeOfField (errField c) = some c := by cases c <;> rfl

@[simp] theorem orderingOfCode_ordCode (o : Ordering) : orderingOfCode (ordCode o) = some o := by cases o <;> rfl

@[simp] theorem signOfField_fieldOfSign (sb : SignBehavior) : signOfField (fieldOfSign sb) = some sb := by cases sb <;> rfl

@[simp] theorem signFieldOfCode_codeOfSignField (f : SignField) : signFieldOfCode (codeOfSignField f) = f := by
  cases f <;> rfl

theorem codeOfSignField_signFieldOfCode (c : Code2) : codeOfSignField (signFieldOfCode c) = c := by
  revert c; decide

/-- A field that names a behaviour is that behaviour's field. -/
theorem eq_fieldOfSign_of_signOfField {f : SignField} {sb : SignBehavior} (h : signOfField f = some sb) :
    f = fieldOfSign sb := by
  cases f <;> cases h <;> rfl

theorem signOfField_eq_none_iff (f : SignField) : signOfField f = none ↔ f = .reserved := by cases f <;> decide

/-- Everything a reply can be: the response on the output ports, errors too. -/
@[simp] theorem reply_eq_next (s : State) (r : Response) : reply s r = .next (s.answer r) := by cases r <;> rfl

theorem ports_ok_err (r : Nat) (wr : Nat) (sbr : SignBehavior) (f : Flags) (ord : Ordering) :
    (Response.ok r wr sbr f ord).ports.err = 0#3 := rfl

theorem ports_err (c : ErrCode) : (Response.err c).ports = errorOutputs (errField c) := rfl

/-- `ERR` is nonzero exactly on an error response. -/
theorem ports_err_ne_zero_iff (r : Response) : r.ports.err ≠ 0#3 ↔ ∃ c, r = .err c := by
  cases r with
  | ok r wr sbr f ord => simp [Response.ports]
  | err c => simp [Response.ports, errorOutputs]

end Sys2Proof.Machine
end

