-- ==== Sys2Proof/Laws/Operands.lean ====
section
/-! SUPPORT. Operand preparation and the checks: one lemma for all that each can do. -/

namespace Sys2Proof.Machine

theorem normWidth_pos (w : Nat) : 1 ≤ normWidth w := by unfold normWidth; split <;> omega

theorem normWidth_le {w n : Nat} (hn : 1 ≤ n) (hw : w ≤ n) : normWidth w ≤ n := by unfold normWidth; split <;> omega

theorem binaryWidth_pos (x : Inputs) : 1 ≤ binaryWidth x := le_trans (normWidth_pos x.wa) (le_max_left _ _)

theorem and_mask (v : Nat) (n : Nat) : v &&& mask n = v % 2 ^ n := Nat.and_two_pow_sub_one_eq_mod v n

theorem and_mask_lt (v : Nat) (n : Nat) : v &&& mask n < 2 ^ n := by
  rw [and_mask]; exact Nat.mod_lt _ (Nat.two_pow_pos n)

theorem and_mask_of_lt {v : Nat} {n : Nat} (h : v < 2 ^ n) : v &&& mask n = v := by
  rw [and_mask, Nat.mod_eq_of_lt h]

theorem mask_lt (n : Nat) : mask n < 2 ^ n := Nat.sub_lt (Nat.two_pow_pos n) Nat.one_pos

theorem operandA_lt (x : Inputs) : operandA x < 2 ^ normWidth x.wa := and_mask_lt _ _

theorem operandB_lt (x : Inputs) : operandB x < 2 ^ normWidth x.wb := and_mask_lt _ _

/-- Padding is zero-extension: operand A's pattern is below `2^L` as it stands (40_datapath.md R123). -/
theorem operandA_lt_binary (x : Inputs) : operandA x < 2 ^ binaryWidth x :=
  lt_of_lt_of_le (operandA_lt x) (Nat.pow_le_pow_right (by decide) (le_max_left _ _))

theorem operandB_lt_binary (x : Inputs) : operandB x < 2 ^ binaryWidth x :=
  lt_of_lt_of_le (operandB_lt x) (Nat.pow_le_pow_right (by decide) (le_max_right _ _))

/-- What passing the unary checks means. -/
theorem checkUnary_eq_ok_iff (c : Config) (x : Inputs) (f : SignField) (sb : SignBehavior) :
    checkUnary c x f = .ok sb ↔ f = fieldOfSign sb ∧ x.wa ≤ c.nmax := by
  unfold checkUnary
  by_cases h : c.nmax < x.wa
  · cases f <;> cases sb <;> simp [signOfField, fieldOfSign, h]
  · cases f <;> cases sb <;> simp [signOfField, fieldOfSign, h, Nat.le_of_not_lt h]

/-- What passing the binary checks means. -/
theorem checkBinary_eq_ok_iff (c : Config) (x : Inputs) (f g : SignField) (sa sb : SignBehavior) :
    checkBinary c x f g = .ok (sa, sb) ↔ f = fieldOfSign sa ∧ g = fieldOfSign sb ∧ x.widthsFit c := by
  unfold checkBinary
  by_cases h : c.nmax < x.wa
  · cases f <;> cases g <;> simp [signOfField, h]
  · by_cases k : c.nmax < x.wb
    · cases f <;> cases g <;> simp [signOfField, h, k]
    · have hw : x.widthsFit c := ⟨Nat.le_of_not_lt h, Nat.le_of_not_lt k⟩
      cases f <;> cases g <;> cases sa <;> cases sb <;> (simp [signOfField, fieldOfSign, h, k] <;> exact hw)

/-- What passing the checks of a two-operand arithmetic or bitwise operation means. -/
theorem checkMatched_eq_ok_iff (c : Config) (x : Inputs) (f g : SignField) (sb : SignBehavior) :
    checkMatched c x f g = .ok sb ↔ f = fieldOfSign sb ∧ g = fieldOfSign sb ∧ x.widthsFit c := by
  have hb := checkBinary_eq_ok_iff c x f g sb sb
  unfold checkMatched
  match h : checkBinary c x f g with
  | .error e => rw [h] at hb; simpa using hb
  | .ok (sa, sb') =>
    obtain ⟨rfl, rfl, hw⟩ := (checkBinary_eq_ok_iff c x f g sa sb').1 h
    have hw' : x.widthsFit c ↔ True := iff_true_intro hw
    cases sa <;> cases sb' <;> cases sb <;> simp only [fieldOfSign, hw'] <;> decide

end Sys2Proof.Machine
end

