-- ==== Sys2Proof/Laws/Kernel.lean ====
section
/-! SUPPORT. The byte loop of the kernel adder, by induction on the bytes. -/

namespace Sys2Proof.Machine

/-- The low `k + 1` bytes of a pattern are its low `k` bytes and byte `k`. -/
theorem mod_succ_byte (v : Nat) (k : Nat) : v % 2 ^ (8 * (k + 1)) = v % 2 ^ (8 * k) + byteAt v k * 2 ^ (8 * k) := by
  have h : (2 : Nat) ^ (8 * (k + 1)) = 2 ^ (8 * k) * 256 := by rw [Nat.mul_add, Nat.pow_add]
  rw [h, Nat.mod_mul, byteAt, Nat.mul_comm (v / 2 ^ (8 * k) % 256)]

/-- What the byte loop has computed after `k` bytes: its sum and carry together are the exact sum of the low `k` bytes and the
carry in, and its sum stays within `k` bytes (40_datapath.md R140). -/
theorem kaddLoop_exact (a b : Nat) (cin : Bool) (k : Nat) :
    (kaddLoop a b cin k).1 < 2 ^ (8 * k) ∧
    (kaddLoop a b cin k).1 + (kaddLoop a b cin k).2.toNat * 2 ^ (8 * k) =
      a % 2 ^ (8 * k) + b % 2 ^ (8 * k) + cin.toNat := by
  induction k with
  | zero => simp [kaddLoop, Nat.mod_one]
  | succ k ih =>
    obtain ⟨hlt, heq⟩ := ih
    have hpow : (2 : Nat) ^ (8 * (k + 1)) = 2 ^ (8 * k) * 256 := by rw [Nat.mul_add, Nat.pow_add]
    simp only [kaddLoop]
    generalize hs : (kaddLoop a b cin k).1 = s at *
    generalize hc : (kaddLoop a b cin k).2 = c at *
    generalize ht : byteAt a k + byteAt b k + c.toNat = t
    have ht512 : t < 512 := by
      have ha : byteAt a k < 256 := Nat.mod_lt _ (by decide)
      have hb : byteAt b k < 256 := Nat.mod_lt _ (by decide)
      have := Bool.toNat_le c
      omega
    have hor : s ||| t % 256 * 2 ^ (8 * k) = s + t % 256 * 2 ^ (8 * k) := by
      rw [Nat.or_comm, Nat.mul_comm, ← Nat.two_pow_add_eq_or_of_lt hlt, Nat.add_comm]
    have hcarry : (decide (255 < t)).toNat = t / 256 := by
      by_cases h : 255 < t <;> simp [h] <;> omega
    rw [hor, hcarry, mod_succ_byte a k, mod_succ_byte b k, hpow]
    have hsplit : t % 256 * 2 ^ (8 * k) + t / 256 * (2 ^ (8 * k) * 256) = t * 2 ^ (8 * k) := by
      conv_rhs => rw [← Nat.mod_add_div t 256]
      ring
    constructor
    · have : t % 256 * 2 ^ (8 * k) ≤ 255 * 2 ^ (8 * k) := Nat.mul_le_mul_right _ (by omega)
      omega
    · have : t * 2 ^ (8 * k) = byteAt a k * 2 ^ (8 * k) + byteAt b k * 2 ^ (8 * k) + c.toNat * 2 ^ (8 * k) := by
        rw [← ht]; ring
      omega

/-- A width's bytes hold every pattern of that width. -/
theorem le_eight_mul_byteCount (L : Nat) : L ≤ 8 * byteCount L := by unfold byteCount; omega

theorem lt_two_pow_byteCount {a : Nat} {L : Nat} (h : a < 2 ^ L) : a < 2 ^ (8 * byteCount L) :=
  lt_of_lt_of_le h (Nat.pow_le_pow_right (by decide) (le_eight_mul_byteCount L))

end Sys2Proof.Machine
end

