-- ==== Sys2Proof/Laws/Flags.lean ====
section
/-! SUPPORT. The port form of the success responses. -/

namespace Sys2Proof.Machine

/-- All that a success response puts on the ports. -/
theorem resultResponse_ports (sb : SignBehavior) (L : Nat) (y : Nat × Bool) :
    (resultResponse sb L y).ports = successOutputs sb L (y.1 &&& mask L) y.2 := rfl

/-- The same, where the operation's pattern is already within its width. -/
theorem resultResponse_ports_of_lt {sb : SignBehavior} {L : Nat} {y : Nat × Bool} (h : y.1 < 2 ^ L) :
    (resultResponse sb L y).ports = successOutputs sb L y.1 y.2 := by
  rw [resultResponse_ports, and_mask_of_lt h]

/-- All that a comparison puts on the ports. -/
theorem compareResponse_ports (va vb : Int) : (compareResponse va vb).ports = comparedOutputs va vb := by
  unfold compareResponse comparedOutputs compareOutcome Response.ports
  split_ifs <;> rfl

end Sys2Proof.Machine
end

