-- ==== Sys2Proof/Laws/Exec.lean ====
section
/-! SUPPORT. Everything an instruction and a step can do, said once: an answer that is a function of the parameter and the
request. -/

namespace Sys2Proof.Machine

/-- A unary request that passes its checks. -/
theorem unaryResponse_ok (c : Config) (x : Inputs) (sb : SignBehavior) (hw : x.wa ≤ c.nmax)
    (operation : SignBehavior → Nat → Nat → Nat × Bool) :
    unaryResponse c x (fieldOfSign sb) operation =
      resultResponse sb (unaryWidth x) (operation sb (unaryWidth x) (operandA x)) := by
  rw [unaryResponse, (checkUnary_eq_ok_iff c x _ sb).2 ⟨rfl, hw⟩]

/-- A two-operand arithmetic or bitwise request that passes its checks. -/
theorem matchedResponse_ok (c : Config) (x : Inputs) (sb : SignBehavior) (hw : x.widthsFit c)
    (operation : SignBehavior → Nat → Nat → Nat → Nat × Bool) :
    matchedResponse c x (fieldOfSign sb) (fieldOfSign sb) operation =
      resultResponse sb (binaryWidth x) (operation sb (binaryWidth x) (operandA x) (operandB x)) := by
  rw [matchedResponse, (checkMatched_eq_ok_iff c x _ _ sb).2 ⟨rfl, rfl, hw⟩]

/-- A comparison that passes its checks. -/
theorem valueResponse_ok (c : Config) (x : Inputs) (sa sb : SignBehavior) (hw : x.widthsFit c) :
    valueResponse c x (fieldOfSign sa) (fieldOfSign sb) =
      compareResponse (val (operandA x) (normWidth x.wa) sa) (val (operandB x) (normWidth x.wb) sb) := by
  rw [valueResponse, (checkBinary_eq_ok_iff c x _ _ sa sb).2 ⟨rfl, rfl, hw⟩]

/-- The response of an instruction to a request. -/
def responseOf (c : Config) (x : Inputs) : Instr → Response
  | .add a b => matchedResponse c x a b (addWithCarry false)
  | .adc a b => matchedResponse c x a b (addWithCarry x.cin)
  | .sub a b => matchedResponse c x a b subtract
  | .inc a => unaryResponse c x a increment
  | .dec a => unaryResponse c x a decrement
  | .neg a => unaryResponse c x a negate
  | .and a b => matchedResponse c x a b (bitwise fun _ p q => p &&& q)
  | .or a b => matchedResponse c x a b (bitwise fun _ p q => p ||| q)
  | .xor a b => matchedResponse c x a b (bitwise fun _ p q => p ^^^ q)
  | .nand a b => matchedResponse c x a b (bitwise fun L p q => notWithin L (p &&& q))
  | .nor a b => matchedResponse c x a b (bitwise fun L p q => notWithin L (p ||| q))
  | .xnor a b => matchedResponse c x a b (bitwise fun L p q => notWithin L (p ^^^ q))
  | .map tt a b => matchedResponse c x a b (bitwise fun L p q => mapBits tt p q L)
  | .cmp a b => valueResponse c x a b

/-- Every instruction answers with its response to the request on the input ports. -/
theorem exec_eq_answer (i : Instr) (s : State) : exec i s = .next (s.answer (responseOf s.cfg s.inp i)) := by
  cases i <;> exact reply_eq_next _ _

/-- The response to a control word, decoded or not. -/
def responseOfWord (c : Config) (x : Inputs) : Response :=
  match decode x.cw with
  | .ok i => responseOf c x i
  | .error _ => .err .illegal

/-- A step on held inputs answers. -/
theorem step_eq_answer {s : State} (h : s.held = true) : step s = .next (s.answer (responseOfWord s.cfg s.inp)) := by
  unfold step serveHeld serve responseOfWord
  rw [if_pos h]
  cases decode s.inp.cw with
  | ok i => exact exec_eq_answer i s
  | error e => exact reply_eq_next s (.err .illegal)

/-- Everything a step can do. -/
theorem step_cases (s : State) :
    (s.held = false ∧ step s = .fault .inputsChanging) ∨
    (s.held = true ∧ step s = .next (s.answer (responseOfWord s.cfg s.inp))) := by
  by_cases h : s.held = true
  · exact .inr ⟨h, step_eq_answer h⟩
  · refine .inl ⟨by simpa using h, ?_⟩
    unfold step serveHeld
    rw [if_neg h]

/-- What a next state tells of the step that gave it. -/
theorem eq_answer_of_step {s t : State} (h : step s = .next t) :
    s.held = true ∧ t = s.answer (responseOfWord s.cfg s.inp) := by
  rcases step_cases s with ⟨_, hf⟩ | ⟨hh, hn⟩
  · rw [hf] at h; cases h
  · rw [hn] at h; cases h; exact ⟨hh, rfl⟩

end Sys2Proof.Machine
end

