-- ==== Sys2Proof/Laws/PerInstr.lean ====
section
/-! SUPPORT. Per instruction: its word fits its own row of the opcode table (30_encoding.md R86). -/

namespace Sys2Proof.Laws

/-- A fact about both fields of a binary instruction's word is a fact about 16 words. -/
theorem forall_two_fields {P : SignField → SignField → Prop}
    (h : ∀ a ∈ [SignField.unsigned, .signed, .magnitude, .reserved],
      ∀ b ∈ [SignField.unsigned, .signed, .magnitude, .reserved], P a b) (a b : SignField) : P a b :=
  h a (by cases a <;> decide) b (by cases b <;> decide)

end Sys2Proof.Laws

/-- The instruction's word fits exactly one row of the table, the row of its own opcode. -/
def Sys2Proof.Laws.OwnRow.Statement (i : Sys2Proof.Instr) : Prop :=
  (Sys2Proof.opcodeTable.filter fun row => row.fits (Sys2Proof.encode i)).map (fun row => row.op) = [Sys2Proof.opOfInstr i]

theorem Sys2Proof.Laws.OwnRow.add (a b : Sys2Proof.SignField) : Sys2Proof.Laws.OwnRow.Statement (.add a b) := by
  revert a b; exact Sys2Proof.Laws.forall_two_fields (by unfold Sys2Proof.Laws.OwnRow.Statement; decide)
theorem Sys2Proof.Laws.OwnRow.adc (a b : Sys2Proof.SignField) : Sys2Proof.Laws.OwnRow.Statement (.adc a b) := by
  revert a b; exact Sys2Proof.Laws.forall_two_fields (by unfold Sys2Proof.Laws.OwnRow.Statement; decide)
theorem Sys2Proof.Laws.OwnRow.sub (a b : Sys2Proof.SignField) : Sys2Proof.Laws.OwnRow.Statement (.sub a b) := by
  revert a b; exact Sys2Proof.Laws.forall_two_fields (by unfold Sys2Proof.Laws.OwnRow.Statement; decide)
theorem Sys2Proof.Laws.OwnRow.inc (a : Sys2Proof.SignField) : Sys2Proof.Laws.OwnRow.Statement (.inc a) := by
  unfold Sys2Proof.Laws.OwnRow.Statement; cases a <;> decide
theorem Sys2Proof.Laws.OwnRow.dec (a : Sys2Proof.SignField) : Sys2Proof.Laws.OwnRow.Statement (.dec a) := by
  unfold Sys2Proof.Laws.OwnRow.Statement; cases a <;> decide
theorem Sys2Proof.Laws.OwnRow.neg (a : Sys2Proof.SignField) : Sys2Proof.Laws.OwnRow.Statement (.neg a) := by
  unfold Sys2Proof.Laws.OwnRow.Statement; cases a <;> decide
theorem Sys2Proof.Laws.OwnRow.and (a b : Sys2Proof.SignField) : Sys2Proof.Laws.OwnRow.Statement (.and a b) := by
  revert a b; exact Sys2Proof.Laws.forall_two_fields (by unfold Sys2Proof.Laws.OwnRow.Statement; decide)
theorem Sys2Proof.Laws.OwnRow.or (a b : Sys2Proof.SignField) : Sys2Proof.Laws.OwnRow.Statement (.or a b) := by
  revert a b; exact Sys2Proof.Laws.forall_two_fields (by unfold Sys2Proof.Laws.OwnRow.Statement; decide)
theorem Sys2Proof.Laws.OwnRow.xor (a b : Sys2Proof.SignField) : Sys2Proof.Laws.OwnRow.Statement (.xor a b) := by
  revert a b; exact Sys2Proof.Laws.forall_two_fields (by unfold Sys2Proof.Laws.OwnRow.Statement; decide)
theorem Sys2Proof.Laws.OwnRow.nand (a b : Sys2Proof.SignField) : Sys2Proof.Laws.OwnRow.Statement (.nand a b) := by
  revert a b; exact Sys2Proof.Laws.forall_two_fields (by unfold Sys2Proof.Laws.OwnRow.Statement; decide)
theorem Sys2Proof.Laws.OwnRow.nor (a b : Sys2Proof.SignField) : Sys2Proof.Laws.OwnRow.Statement (.nor a b) := by
  revert a b; exact Sys2Proof.Laws.forall_two_fields (by unfold Sys2Proof.Laws.OwnRow.Statement; decide)
theorem Sys2Proof.Laws.OwnRow.xnor (a b : Sys2Proof.SignField) : Sys2Proof.Laws.OwnRow.Statement (.xnor a b) := by
  revert a b; exact Sys2Proof.Laws.forall_two_fields (by unfold Sys2Proof.Laws.OwnRow.Statement; decide)
theorem Sys2Proof.Laws.OwnRow.map (tt : Sys2Proof.TruthTable) (a b : Sys2Proof.SignField) :
    Sys2Proof.Laws.OwnRow.Statement (.map tt a b) := by
  revert tt
  unfold Sys2Proof.Laws.OwnRow.Statement
  cases a <;> cases b <;> decide
theorem Sys2Proof.Laws.OwnRow.cmp (a b : Sys2Proof.SignField) : Sys2Proof.Laws.OwnRow.Statement (.cmp a b) := by
  revert a b; exact Sys2Proof.Laws.forall_two_fields (by unfold Sys2Proof.Laws.OwnRow.Statement; decide)
end

