-- ==== Sys2Proof/Tests/Slice0.lean ====
section
/-! SUPPORT. Tests of one request each, their expected results taken from spec/95_test_vectors.md (the vector's id stands in the comment) or
worked out by hand from the rule named; and for every statement with hypotheses a witness that meets them. -/

namespace Sys2Proof.Tests

open Sys2Proof.Machine

/-- The port form of a success, as 95_test_vectors.md writes it. -/
def okPorts (r wr : Nat) (sbr : Code2) (o z s p : Bool) (ord : Code2) : Outputs :=
  { err := 0#3, r := r, wr := wr, sbr := sbr, fo := o, fz := z, fs := s, fp := p, ord := ord }

/-- A request on a block with `NMAX = 16`, the width that 95_test_vectors.md assumes. -/
def request (cw : ControlWord) (a wa b wb : Nat) (cin : Bool) : State :=
  (State.resetAt { nmax := 16 }).drive { cw := cw, a := a, wa := wa, b := b, wb := wb, cin := cin }

/-- The output ports after a step, where there is one. -/
def outputsOf : Host.Outcome State Fault Refusal → Option Outputs
  | .next t => some t.out
  | .fault _ => none
  | .refused _ => none

/-- The output ports after one step on a request. -/
def answer (cw : ControlWord) (a wa b wb : Nat) (cin : Bool) : Option Outputs := outputsOf (step (request cw a wa b wb cin))

/-! ### Well-formedness: an ill-formed term for each check -/

theorem test_wf_accepts : (Instr.cmp .signed .unsigned).wf = true ∧ (Instr.inc .magnitude).wf = true := by decide
theorem test_wf_refuses_reserved_sba : (Instr.inc .reserved).wf = false := by decide
theorem test_wf_refuses_reserved_sbb : (Instr.cmp .signed .reserved).wf = false := by decide
theorem test_wf_refuses_mixed_signs : (Instr.map 0x6#4 .unsigned .signed).wf = false := by decide

/-! ### Decoding: words written bit by bit from the layout of 30_encoding.md R81, `reserved SBB SBA TT OP` -/

theorem test_decode_add : decode 0b0000_01_01_0000_0000#16 = .ok (.add .signed .signed) := by decide
theorem test_decode_adc : decode 0b0000_10_10_0000_0001#16 = .ok (.adc .magnitude .magnitude) := by decide
theorem test_decode_sub : decode 0b0000_00_01_0000_0010#16 = .ok (.sub .signed .unsigned) := by decide
theorem test_decode_inc : decode 0b0000_00_10_0000_0011#16 = .ok (.inc .magnitude) := by decide
theorem test_decode_dec : decode 0b0000_00_01_0000_0100#16 = .ok (.dec .signed) := by decide
theorem test_decode_neg : decode 0b0000_00_11_0000_0101#16 = .ok (.neg .reserved) := by decide
theorem test_decode_and : decode 0b0000_00_00_0000_0110#16 = .ok (.and .unsigned .unsigned) := by decide
theorem test_decode_or : decode 0b0000_01_01_0000_0111#16 = .ok (.or .signed .signed) := by decide
theorem test_decode_xor : decode 0b0000_10_10_0000_1000#16 = .ok (.xor .magnitude .magnitude) := by decide
theorem test_decode_nand : decode 0b0000_11_00_0000_1001#16 = .ok (.nand .unsigned .reserved) := by decide
theorem test_decode_nor : decode 0b0000_00_00_0000_1010#16 = .ok (.nor .unsigned .unsigned) := by decide
theorem test_decode_xnor : decode 0b0000_01_00_0000_1011#16 = .ok (.xnor .unsigned .signed) := by decide
theorem test_decode_map : decode 0b0000_01_10_1011_1100#16 = .ok (.map 0b1011#4 .magnitude .signed) := by decide
theorem test_decode_cmp : decode 0b0000_01_10_0000_1101#16 = .ok (.cmp .magnitude .signed) := by decide
theorem test_decode_top_bits : decode 0b1000_00_00_0000_0000#16 = .error .topBits := by decide
theorem test_decode_op_e : decode 0b0000_00_00_0000_1110#16 = .error .reservedOpcode := by decide
theorem test_decode_op_f : decode 0b0000_00_00_0000_1111#16 = .error .reservedOpcode := by decide
theorem test_decode_table : decode 0b0000_00_00_1000_1101#16 = .error .truthTable := by decide
theorem test_decode_unary_sbb : decode 0b0000_01_00_0000_0101#16 = .error .unarySignB := by decide
theorem test_decodeTableWord : decodeTableWord 16 0x056C = some (.map 0x6#4 .signed .signed) ∧ decodeTableWord 16 0x000E = none := by
  decide

/-! ### Errors -/

/-- ENC-19: ILLEGAL comes first. -/
theorem test_illegal_first : answer 0x13FF#16 1 17 1 17 false = some (errorOutputs 1#3) := by decide
/-- ENC-20: BAD_SB before BAD_WIDTH. -/
theorem test_bad_sb_before_width : answer 0x0700#16 1 17 1 4 false = some (errorOutputs 2#3) := by decide
/-- ENC-21: BAD_WIDTH before SIGN_MISMATCH. -/
theorem test_bad_width_before_mismatch : answer 0x0400#16 1 17 1 4 false = some (errorOutputs 3#3) := by decide
/-- ENC-18. -/
theorem test_sign_mismatch : answer 0x046C#16 1 4 1 4 false = some (errorOutputs 4#3) := by decide
/-- 70_reset_and_hazards.md R344. -/
theorem test_inputs_changing : step { request 0#16 1 4 1 4 false with held := false } = .fault .inputsChanging := rfl

/-! ### The instructions -/

/-- ADD-01. -/
theorem test_add_carry : answer 0x0000#16 0xFF 8 0x1 8 false = some (okPorts 0 8 0#2 true true false false 0#2) := by decide
/-- ADD-17: Magnitude -3 and -2 give -5. -/
theorem test_add_magnitude : answer 0x0A00#16 0xB 4 0xA 4 false = some (okPorts 0b1101 4 2#2 true false true true 0#2) := by decide
/-- ADC-02. -/
theorem test_adc_largest : answer 0x0001#16 0xFF 8 0xFF 8 true = some (okPorts 0xFF 8 0#2 true false true true 0#2) := by decide
/-- ADC-07: the carry adds 1 to the Magnitude value -1. -/
theorem test_adc_magnitude : answer 0x0A01#16 0x9 4 0x0 4 true = some (okPorts 0 4 2#2 true true false false 0#2) := by decide
/-- SUB-08: the narrower Signed operand is zero-extended. -/
theorem test_sub_widths : answer 0x0502#16 0x1 8 0xF 4 false = some (okPorts 0xF2 8 1#2 false false true false 0#2) := by decide
/-- SUB-12: the unrepresentable -8 becomes -0. -/
theorem test_sub_minus_zero : answer 0x0A02#16 0x9 4 0x7 4 false = some (okPorts 0b1000 4 2#2 true false true false 0#2) := by decide
/-- INC-07: the largest Magnitude value wraps to -0. -/
theorem test_inc_wraps : answer 0x0203#16 0x7 4 0x0 0 false = some (okPorts 0b1000 4 2#2 false false true false 0#2) := by decide
/-- ENC-15: `WB`, `B` and `CIN` are ignored. -/
theorem test_inc_ignores : answer 0x0003#16 0x5 4 0xFFFF 17 true = some (okPorts 6 4 0#2 false false false false 0#2) := by decide
/-- DEC-06: -0 goes to -1. -/
theorem test_dec_minus_zero : answer 0x0204#16 0x8 4 0x0 0 false = some (okPorts 0b1001 4 2#2 false false true true 0#2) := by decide
/-- DEC-10: a borrow between bytes. -/
theorem test_dec_borrow : answer 0x0004#16 0x100 16 0x0 0 false = some (okPorts 0xFF 16 0#2 true false false true 0#2) := by decide
/-- NEG-03: the most negative value. -/
theorem test_neg_most_negative : answer 0x0105#16 0x80 8 0x0 0 false = some (okPorts 0x80 8 1#2 true false true false 0#2) := by decide
/-- NEG-13: Magnitude 0 goes to -0, which is not zero on its bits. -/
theorem test_neg_zero : answer 0x0205#16 0x0 4 0x0 0 false = some (okPorts 0b1000 4 2#2 false false true false 0#2) := by decide
/-- BIT-13. -/
theorem test_and_widths : answer 0x0006#16 0xF0F0 16 0xFF 8 false = some (okPorts 0xF0 16 0#2 false false false false 0#2) := by decide
/-- BIT-11. -/
theorem test_or_signed : answer 0x0507#16 0x8 4 0x1 4 false = some (okPorts 0b1001 4 1#2 false false true true 0#2) := by decide
/-- BIT-12. -/
theorem test_xor_same : answer 0x0008#16 0xAA 8 0xAA 8 false = some (okPorts 0 8 0#2 false true false false 0#2) := by decide
/-- BIT-04: the padded high bits become 1, up to bit 7. -/
theorem test_nand_widths : answer 0x0009#16 0xF 8 0x3 4 false = some (okPorts 0xFC 8 0#2 false false true false 0#2) := by decide
/-- BIT-08. -/
theorem test_nor_widths : answer 0x000A#16 0x0 8 0x0 1 false = some (okPorts 0xFF 8 0#2 false false true true 0#2) := by decide
/-- BIT-09. -/
theorem test_xnor_widths : answer 0x050B#16 0x0 4 0xF0 8 false = some (okPorts 0x0F 8 1#2 false false false true 0#2) := by decide
/-- MAP-07 and MAP-08 tell `TT[2*a+b]` from `TT[2*b+a]`. -/
theorem test_map_order : answer 0x004C#16 0xC 4 0xA 4 false = some (okPorts 0b0100 4 0#2 false false false false 0#2) := by decide
/-- MAP-17: `TT[0] = 1` on the padded bits of both operands. -/
theorem test_map_padding : answer 0x001C#16 0x0 4 0x0 8 false = some (okPorts 0xFF 8 0#2 false false true true 0#2) := by decide
/-- CMP-03: mixed behaviours, -1 against 15. -/
theorem test_cmp_mixed : answer 0x010D#16 0xF 4 0xF 4 false = some (okPorts 0 1 0#2 false false true false 1#2) := by decide
/-- CMP-06: 255 against -1. -/
theorem test_cmp_greater : answer 0x040D#16 0xFF 8 0xFF 8 false = some (okPorts 0 1 0#2 false false false false 2#2) := by decide

/-! ### The kernel adder and the host's notation -/

/-- 95_test_vectors.md 2.10, `L = 12`: the mask clips and the top byte gives no carry. -/
theorem test_kernel_clips : (kaddLoop 0xFFF 0xFFF true (byteCount 12)).1 = 0x1FFF ∧ kaddClipped 0xFFF 0xFFF true 12 = true ∧
    kaddCarry 0xFFF 0xFFF true 12 = false ∧ kadd 0xFFF 0xFFF true 12 = (0xFFF, true) := by decide

/-- 30_encoding.md R96: `m4'b1011` is the Magnitude value -3, and underscores are ignored. -/
theorem test_literal : readLiteral "m4'b10_11".toList = some { sb := .magnitude, width := 4, pattern := 0xB } ∧
    val 0xB 4 .magnitude = -3 ∧ readLiteral "u4'b2".toList = none := by decide

/-- 30_encoding.md R95: `.tt` only on MAP, `opB` never on INC, `cin` required on ADC. -/
theorem test_lines_rejected : readRequest "ADD.tt=0x1 u1'b0, u1'b0".toList = none ∧ readRequest "INC u1'b0, u1'b0".toList = none ∧
    readRequest "ADC u1'b0, u1'b0".toList = none := by decide

/-- Program P2's guarded step (95_test_vectors.md). -/
theorem test_guarded_step : readStep "r3: if r2.LT then NEG r1 else r1".toList =
    some (.guarded 3 2 .lt (.line { op := .neg, tt := none, a := .ref 1, b := none, cin := none }) 1) := by decide

/-- The model's choice of log entry 9: the branch not taken is not looked at (`r9` is bound nowhere). -/
theorem test_branch_not_taken : ((ProgramStep.guarded 2 1 .z (.pseudo .mov (.lit { sb := .unsigned, width := 1, pattern := 1 })) 9).run
      [(1, Outputs.reset)] State.reset).isSome = true ∧
    ((ProgramStep.guarded 2 1 .o (.pseudo .mov (.ref 9)) 1).run [(1, Outputs.reset)] State.reset).isSome = true ∧
    ((ProgramStep.guarded 2 1 .o (.pseudo .mov (.ref 1)) 9).run [(1, Outputs.reset)] State.reset).isSome = false := by decide

/-! ### Reset -/

theorem test_reset_step_runs_word : outputsOf (step (State.reset.withFetchWord 16 0x000A)) =
    some (okPorts 1 1 0#2 false false true true 0#2) := by decide

/-! ### Witnesses: for each statement with hypotheses, a case that meets them all -/

theorem witness_EncodeOfDecodedWord : decode 0x0A0D#16 = .ok (.cmp .magnitude .magnitude) := by decide
theorem witness_OpcodeTableIsTheDecoder_fits : ∃ row ∈ opcodeTable, row.fits 0x0FFC#16 = true ∧
    decode 0x0FFC#16 = .ok (.map 0xF#4 .reserved .reserved) := by decide
theorem witness_OpcodeTableIsTheDecoder_none : (request 0x0010#16 0 1 0 1 false).held = true ∧
    ∀ row ∈ opcodeTable, row.fits (request 0x0010#16 0 1 0 1 false).inp.cw = false := by decide
theorem witness_ResponseFormsOneToOne : (okPorts 5 4 2#2 true false false true 0#2).response? =
      some (.ok 5 4 .magnitude { o := true, z := false, s := false, p := true } .eq) ∧
    (errorOutputs 4#3).response? = some (.err .signMismatch) := by decide
theorem witness_StepRunsDecodedInstruction : (request 0x0A06#16 1 4 1 4 false).held = true ∧
    decode (request 0x0A06#16 1 4 1 4 false).inp.cw = .ok (.and .magnitude .magnitude) := by decide
theorem witness_InputsChangingStops : ({ request 0#16 1 4 1 4 false with held := false } : State).held = false := rfl
theorem witness_RepeatingARequest : step (request 0x0001#16 1 4 1 4 true) =
    .next ((request 0x0001#16 1 4 1 4 true).answer (.ok 3 4 .unsigned { o := false, z := false, s := false, p := true } .eq)) := rfl
theorem witness_UnusedInputsIgnored_cin : ∃ t, exec (.cmp .signed .signed) (request 0#16 1 4 1 4 true) = .next t ∧
    ∀ sba sbb, Instr.cmp .signed .signed ≠ .adc sba sbb := ⟨_, rfl, fun _ _ h => nomatch h⟩
theorem witness_UnusedInputsIgnored_b : ∃ t, exec (.dec .signed) (request 0#16 1 4 1 17 true) = .next t ∧
    (Instr.dec .signed).isBinary = false := ⟨_, rfl, rfl⟩
theorem witness_StrayBitsIgnored : (∃ t, exec (.add .unsigned .unsigned) (request 0#16 0x1FF 8 0x101 8 false) = .next t) ∧
    (∀ k < normWidth 8, (0xFF : Nat).testBit k = (0x1FF : Nat).testBit k) ∧ ∀ k < normWidth 8, (0x1 : Nat).testBit k = (0x101 : Nat).testBit k :=
  ⟨⟨_, rfl⟩, by decide, by decide⟩
theorem witness_ZeroWidthReadsAsOne : (request 0#16 1 0 1 0 false).cfg.wf ∧ (request 0#16 1 0 1 0 false).inp.wa = 0 ∧
    (request 0#16 1 0 1 0 false).inp.wb = 0 ∧ ∃ t, exec (.add .unsigned .unsigned) (request 0#16 1 0 1 0 false) = .next t :=
  ⟨by decide, rfl, rfl, _, rfl⟩
theorem witness_StepKeepsPortsLegal : (request 0x0A02#16 0xFFFF 16 1 31 true).wf ∧
    ∃ t, step (request 0x0A02#16 0xFFFF 16 1 31 true) = .next t := ⟨by decide, _, rfl⟩
/-- The hypothesis of ResetPortsLegal and WidthPortsHoldNmax, at the least `NMAX`. -/
theorem witness_ResetPortsLegal : ({ nmax := 1 } : Config).wf := by decide
theorem witness_IllegalWordsAnswered : (request 0x0403#16 1 4 0 0 false).held = true := rfl
theorem witness_ReservedSignAnswered : (request 0x0C0D#16 1 4 1 4 false).held = true ∧
    decode (request 0x0C0D#16 1 4 1 4 false).inp.cw = .ok (.cmp .unsigned .reserved) := by decide
theorem witness_WideOperandAnswered : (request 0x0000#16 1 16 1 17 false).held = true ∧
    decode (request 0x0000#16 1 16 1 17 false).inp.cw = .ok (.add .unsigned .unsigned) ∧
    (Instr.add .unsigned .unsigned).signsLegal = true := by decide
theorem witness_MixedSignsAnswered : (request 0x0400#16 1 16 1 16 false).held = true ∧
    decode (request 0x0400#16 1 16 1 16 false).inp.cw = .ok (.add .unsigned .signed) ∧
    (Instr.add .unsigned .signed).isCmp = false ∧ (Instr.add .unsigned .signed).sbb? = some .signed ∧
    (Instr.add .unsigned .signed).sba ≠ .signed ∧ (Instr.add .unsigned .signed).signsLegal = true ∧
    (request 0x0400#16 1 16 1 16 false).inp.widthsFit (request 0x0400#16 1 16 1 16 false).cfg := by decide
theorem witness_MixedSignsAnswered_cmp : (request 0x040D#16 1 4 1 4 false).held = true ∧
    decode (request 0x040D#16 1 4 1 4 false).inp.cw = .ok (.cmp .unsigned .signed) ∧
    (Instr.cmp .unsigned .signed).isCmp = true := by decide
theorem witness_ErrFollowsCheckOrder : (request 0x07E0#16 1 17 1 17 false).held = true := rfl
theorem witness_ErrorHasNoOtherEffect : ∃ t, step (request 0x0300#16 1 4 1 4 false) = .next t ∧ t.out.err ≠ 0#3 :=
  ⟨_, rfl, by decide⟩
theorem witness_ErrorsIgnoreData_pair : ∃ t t', step (request 0x0300#16 1 4 1 4 false) = .next t ∧
    step (request 0x0300#16 7 4 9 4 true) = .next t' := ⟨_, _, rfl, rfl⟩
theorem witness_ErrorsIgnoreData_passes : (request 0x020D#16 1 16 1 0 false).held = true ∧ (request 0x020D#16 1 16 1 0 false).cfg.wf ∧
    portCheck { nmax := 16 } 0x020D#16 16 0 = 0#3 := by decide
/-- Both hypotheses of AddUndoesSub at the least `NMAX`, with both widths 0, where SUB's result has width 1. -/
theorem witness_AddUndoesSub : ∃ s : State, s.cfg = { nmax := 1 } ∧ s.inp.wa = 0 ∧ s.inp.wb = 0 ∧ s.cfg.wf ∧ s.inp.widthsFit s.cfg :=
  ⟨State.resetAt { nmax := 1 }, by decide⟩
/-- The hypothesis of AddResult, AdcResult, SubResult, BitwiseResults, MapResult, MapAtTableValues and CmpResult, at both ends of the range
of widths. -/
theorem witness_widthsFit : (request 0#16 1 16 1 0 false).inp.widthsFit (request 0#16 1 16 1 0 false).cfg := by decide
theorem witness_SubResult_signed_range : inRange (val 0b1000 4 .signed - val 0b1111 4 .signed) 4 .signed := by decide
/-- The hypothesis of IncResult, DecResult and NegResult. -/
theorem witness_widthFits : (request 0#16 1 16 0 17 false).inp.wa ≤ (request 0#16 1 16 0 17 false).cfg.nmax := by decide
theorem witness_CmpOrdersValues_widths : val 0b1111 4 .signed = -1 ∧ val 0b1 1 .signed = -1 ∧ (0b1111 : Nat) < 2 ^ 4 ∧ (0b1 : Nat) < 2 ^ 1 ∧
    ordOf { nmax := 4 } 0b1111 4 .signed 0b1 1 .signed = some 0#2 := by decide
theorem witness_CmpOrdersValues_transitive : ordOf { nmax := 4 } 8 4 .signed 3 2 .signed ≠ some 2#2 ∧
    ordOf { nmax := 4 } 3 2 .signed 1 4 .unsigned ≠ some 2#2 := by decide
theorem witness_FlagsReadTheResult : (Instr.neg .magnitude).isCmp = false ∧
    ∃ t, exec (.neg .magnitude) (request 0#16 0 16 0 0 false) = .next t ∧ t.out.err = 0#3 := ⟨rfl, _, rfl, by decide⟩
theorem witness_BitwiseOverflowIsZero : ∃ t, exec (.map 0xF#4 .signed .signed) (request 0#16 1 16 1 1 false) = .next t ∧
    t.out.err = 0#3 := ⟨_, rfl, by decide⟩
theorem witness_ResultWidthAndSign : (∃ t, exec (.xor .signed .signed) (request 0#16 1 3 1 16 false) = .next t ∧ t.out.err = 0#3) ∧
    (∃ t, exec (.cmp .signed .magnitude) (request 0#16 1 3 1 16 false) = .next t ∧ t.out.err = 0#3) ∧
    (Instr.cmp .signed .magnitude).isCmp = true := ⟨⟨_, rfl, by decide⟩, ⟨_, rfl, by decide⟩, rfl⟩
theorem witness_MaskInvariant : ∃ t, step (request 0x0009#16 0 16 0 16 false) = .next t ∧ t.out.err = 0#3 ∧ 16 ≤ 17 :=
  ⟨_, rfl, by decide, by decide⟩
/-- The hypotheses of KernelAdderClosedForm, KernelOverflowCauses and KernelFlagsAgree, at a width that is a multiple of 8 and at one
that is not. -/
theorem witness_kernel : (0xFF : Nat) < 2 ^ 8 ∧ (0x1FF : Nat) < 2 ^ 9 ∧ 9 % 8 ≠ 0 ∧ 8 % 8 = 0 := by decide
/-- The hypotheses of NegationClosedForm, ValueRanges, ConversionsKeepValues, ConversionRoundTrips, NegNegatesTheValue and
IncDecUndoEachOther on a pattern, at width 1 and with the top bit set and clear. -/
theorem witness_pattern : 1 ≤ 1 ∧ (1 : Nat) < 2 ^ 1 ∧ (0b1001 : Nat) < 2 ^ 4 ∧ (0b1001 : Nat).testBit (4 - 1) = true ∧
    (0b0111 : Nat).testBit (4 - 1) = false ∧ (0b1001 : Nat) ≠ 2 ^ (4 - 1) := by decide
theorem witness_ValueRanges_reached : inRange (-7) 4 .magnitude ∧ inRange (-8) 4 .signed ∧ inRange 15 4 .unsigned := by decide
theorem witness_AddUndoesSub_magnitude : truncInt 4 ((toTC 0b1000 4 .magnitude : Int) - toTC 0b0011 4 .magnitude) ≠ 2 ^ (4 - 1) ∧
    (0b1000 : Nat) = 2 ^ (4 - 1) := by decide
theorem witness_IncDecUndoEachOther : trunc 4 (toTC 0b1001 4 .magnitude + 1) ≠ 2 ^ (4 - 1) ∧
    truncInt 4 ((toTC 0b1001 4 .magnitude : Int) - 1) ≠ 2 ^ (4 - 1) ∧ 2 ≤ 4 := by decide
theorem witness_ChainedAddition : (0x12FF : Nat) < 2 ^ (8 * 2) ∧ (0x0001 : Nat) < 2 ^ (8 * 2) ∧ SignBehavior.signed ≠ .magnitude ∧
    8 ≤ ({ nmax := 8 } : Config).nmax := by decide
theorem witness_SignedOverflowFromSignBits : (request 0#16 0x7F 8 1 8 false).inp.wa = (request 0#16 0x7F 8 1 8 false).inp.wb ∧
    ∃ t, exec (.add .signed .signed) (request 0#16 0x7F 8 1 8 false) = .next t ∧ t.out.err = 0#3 := ⟨rfl, _, rfl, by decide⟩
theorem witness_MagnitudeArithmeticByValue : inRange (val 0b1011 4 .magnitude + val 0b1010 4 .magnitude + (true.toNat : Int)) 4 .magnitude ∧
    inRange (val 0b1001 4 .magnitude - val 0b0110 4 .magnitude) 4 .magnitude ∧ inRange (val 0b1000 4 .magnitude + 1) 4 .magnitude ∧
    inRange (val 0b1110 4 .magnitude - 1) 4 .magnitude := by decide
theorem witness_PseudoInstructionEffects : ({ sb := .magnitude, width := 16, pattern := 0x8000 } : Literal).fits { nmax := 16 } = true := by
  decide
theorem witness_AssembledLineIsLegal : ∃ x, assemble { nmax := 16 } (Pseudo.not.expand { sb := .signed, width := 16, pattern := 0xFFFF }) =
    some x := ⟨_, rfl⟩
theorem witness_ProgramStopsAtFirstError : ∃ t n o, (ProgramStep.issue 1 (.line
      { op := .add, tt := none, a := .lit { sb := .unsigned, width := 1, pattern := 0 },
        b := some (.lit { sb := .signed, width := 1, pattern := 0 }), cin := none })).run [] State.reset = some (t, n, o) ∧
    o.err ≠ 0#3 := ⟨_, _, _, rfl, by decide⟩
theorem witness_ProgramStopsAtFirstError_bindings : ∀ b ∈ ([(1, Outputs.reset)] : Bindings), b.2.err = 0#3 := by decide

end Sys2Proof.Tests
end

section
/-! The scope statements (00_scope.md): every response that the block gives is legal, whatever the request, so every step keeps the
ports legal; the bits of a byte; the width of a width port. -/

namespace Sys2Proof.Machine

/-! ### Legal responses -/

/-- The reserved code is no behaviour's code (10_state.md R36). -/
theorem codeOfSign_ne_reserved (sb : SignBehavior) : codeOfSign sb ≠ 3#2 := by cases sb <;> decide

/-- `ORD` is never `11` (10_state.md R42). -/
theorem ordCode_ne_reserved (o : Ordering) : ordCode o ≠ 3#2 := by cases o <;> decide

theorem err_ports_failure (e : ErrCode) : (Response.err e).ports.failure :=
  ⟨(errField_range e).1, (errField_range e).2, rfl⟩

/-- Whatever pattern an operation gives, the cut to the width makes it a legal result (40_datapath.md R124). -/
theorem resultResponse_ports_success {c : Config} {L : Nat} (hpos : 1 ≤ L) (hle : L ≤ c.nmax) (sb : SignBehavior)
    (y : Nat × Bool) : (resultResponse sb L y).ports.success c :=
  ⟨rfl, hpos, hle, and_mask_lt y.1 L, codeOfSign_ne_reserved sb, ordCode_ne_reserved .eq⟩

/-- CMP's response has width 1, which `NMAX >= 1` allows (00_scope.md R6). -/
theorem compareResponse_ports_success {c : Config} (hc : c.wf) (va vb : Int) :
    (compareResponse va vb).ports.success c :=
  ⟨rfl, le_rfl, hc, Nat.two_pow_pos 1, codeOfSign_ne_reserved .unsigned, ordCode_ne_reserved _⟩

theorem binaryWidth_le {c : Config} {x : Inputs} (hc : c.wf) (hx : x.widthsFit c) : binaryWidth x ≤ c.nmax :=
  max_le (normWidth_le hc hx.1) (normWidth_le hc hx.2)

theorem unaryResponse_legal {c : Config} (hc : c.wf) (x : Inputs) (sba : SignField)
    (operation : SignBehavior → Nat → Nat → Nat × Bool) : (unaryResponse c x sba operation).ports.legal c := by
  unfold unaryResponse
  cases h : checkUnary c x sba with
  | error e => exact .inr (err_ports_failure e)
  | ok sb =>
    obtain ⟨-, hwa⟩ := (checkUnary_eq_ok_iff c x sba sb).1 h
    exact .inl (resultResponse_ports_success (normWidth_pos x.wa) (normWidth_le hc hwa) sb _)

theorem matchedResponse_legal {c : Config} (hc : c.wf) (x : Inputs) (sba sbb : SignField)
    (operation : SignBehavior → Nat → Nat → Nat → Nat × Bool) :
    (matchedResponse c x sba sbb operation).ports.legal c := by
  unfold matchedResponse
  cases h : checkMatched c x sba sbb with
  | error e => exact .inr (err_ports_failure e)
  | ok sb =>
    obtain ⟨-, -, hx⟩ := (checkMatched_eq_ok_iff c x sba sbb sb).1 h
    exact .inl (resultResponse_ports_success (binaryWidth_pos x) (binaryWidth_le hc hx) sb _)

theorem valueResponse_legal {c : Config} (hc : c.wf) (x : Inputs) (sba sbb : SignField) :
    (valueResponse c x sba sbb).ports.legal c := by
  unfold valueResponse
  cases checkBinary c x sba sbb with
  | error e => exact .inr (err_ports_failure e)
  | ok _ => exact .inl (compareResponse_ports_success hc _ _)

/-- Every instruction has one of three shapes, and each of them gives legal responses only. -/
theorem responseOf_legal {c : Config} (hc : c.wf) (x : Inputs) (i : Instr) : (responseOf c x i).ports.legal c := by
  cases i with
  | inc sba | dec sba | neg sba => exact unaryResponse_legal hc x sba _
  | cmp sba sbb => exact valueResponse_legal hc x sba sbb
  | add sba sbb | adc sba sbb | sub sba sbb | and sba sbb | or sba sbb | xor sba sbb | nand sba sbb | nor sba sbb
  | xnor sba sbb | map _ sba sbb => exact matchedResponse_legal hc x sba sbb _

theorem responseOfWord_legal {c : Config} (hc : c.wf) (x : Inputs) : (responseOfWord c x).ports.legal c := by
  unfold responseOfWord
  cases decode x.cw with
  | ok i => exact responseOf_legal hc x i
  | error _ => exact .inr (err_ports_failure .illegal)

/-! ### Bytes -/

/-- A byte has 8 bits, and its bit `j` is bit `8k + j` of the pattern (20_memory.md R60). -/
theorem testBit_byteAt (v k j : Nat) : (byteAt v k).testBit j = (decide (j < 8) && v.testBit (8 * k + j)) := by
  rw [byteAt, show 256 = 2 ^ 8 from rfl, Nat.testBit_mod_two_pow, Nat.testBit_div_two_pow, Nat.add_comm]

/-! ### The obligations -/

/-- Settles O15: a step changes only the outputs, and its response to any request is legal. -/
theorem stepKeepsPortsLegal : Obligations.StepKeepsPortsLegal := by
  rintro s t ⟨hc, hin, -⟩ hstep
  obtain ⟨-, rfl⟩ := eq_answer_of_step hstep
  exact ⟨hc, hin, responseOfWord_legal hc s.inp⟩

/-- Settles O6: bit `i mod 8` of byte `i / 8` has index `8 * (i / 8) + i mod 8`, which is `i`. -/
theorem bytesAreLittleEndian : Obligations.BytesAreLittleEndian := by
  intro v i
  have hbit : i % 8 < 8 := Nat.mod_lt i (by decide)
  rw [testBit_byteAt, Nat.div_add_mod, decide_eq_true hbit, Bool.true_and]

/-- Settles O57: `WBITS - 1` is `floor(log2(NMAX))`, and `NMAX` is not 0. -/
theorem widthPortsHoldNmax : Obligations.WidthPortsHoldNmax := by
  intro c hc
  have hne : c.nmax ≠ 0 := Nat.one_le_iff_ne_zero.mp hc
  exact ⟨Nat.lt_log2_self, Nat.log2_self_le hne⟩

end Sys2Proof.Machine
end

section
/-! The state statements (10_state.md): the two forms of a response, the request as all that a response depends on, the mask
invariant, and the values of each sign behaviour. -/

namespace Sys2Proof.Machine

/-! ### The port form and the abstract form of a response -/

/-- A code that names a behaviour is that behaviour's code (10_state.md R36). -/
theorem codeOfSign_of_signOfField {c : Code2} {sb : SignBehavior} (h : signOfField (signFieldOfCode c) = some sb) :
    codeOfSign sb = c := by
  rw [codeOfSign, ← eq_fieldOfSign_of_signOfField h, codeOfSignField_signFieldOfCode]

/-- A code that names an outcome is that outcome's code (10_state.md R42). -/
theorem ordCode_of_orderingOfCode {c : Code2} {o : Ordering} (h : orderingOfCode c = some o) : ordCode o = c := by
  revert c o; decide

/-- A code on `ERR` that names an error is that error's code (60_exceptions.md R301). -/
theorem errField_of_errCodeOfField {e : ErrField} {c : ErrCode} (h : errCodeOfField e = some c) : errField c = e := by
  revert e; cases c <;> decide

/-- Reading back what the port form shows loses nothing. -/
theorem response?_ports (r : Response) : r.ports.response? = some r := by
  cases r with
  | ok r wr sbr f ord => simp [Outputs.response?, Response.ports, codeOfSign]
  | err c => simp [Outputs.response?, Response.ports, errorOutputs]

/-- Outputs that read as a response are that response's port form: every port is a field of it, or is 0. -/
theorem ports_of_response? {o : Outputs} {r : Response} (h : o.response? = some r) : r.ports = o := by
  unfold Outputs.response? at h
  split at h
  case isTrue herr =>
    split at h
    case h_1 sb ord hsb hord =>
      cases h
      rw [Response.ports, codeOfSign_of_signOfField hsb, ordCode_of_orderingOfCode hord, ← herr]
    case h_2 => cases h
  case isFalse =>
    split at h
    case h_1 c hc =>
      split at h
      case isTrue ho =>
        cases h
        rw [ports_err, errField_of_errCodeOfField hc, ← ho]
      case isFalse => cases h
    case h_2 => cases h

/-! ### The response as a function of the request -/

/-- `respond` gives the port form of the response to the request. -/
theorem respond_eq (c : Config) (x : Inputs) : respond c x = some (responseOfWord c x).ports := by
  rw [respond, step_eq_answer (State.drive_held _ x)]
  rfl

/-! ### The mask invariant -/

/-- The three kinds of response that the block gives: an error, a result cut to its width, a comparison. Unlike
`responseOfWord_legal`, this needs no premise on the parameter. -/
inductive Response.Given : Response → Prop where
  | error (e : ErrCode) : Given (.err e)
  | result (sb : SignBehavior) (L : Nat) (y : Nat × Bool) : Given (resultResponse sb L y)
  | compared (va vb : Int) : Given (compareResponse va vb)

theorem unaryResponse_given (c : Config) (x : Inputs) (sba : SignField)
    (operation : SignBehavior → Nat → Nat → Nat × Bool) : (unaryResponse c x sba operation).Given := by
  unfold unaryResponse
  cases checkUnary c x sba with
  | error e => exact .error e
  | ok sb => exact .result sb _ _

theorem matchedResponse_given (c : Config) (x : Inputs) (sba sbb : SignField)
    (operation : SignBehavior → Nat → Nat → Nat → Nat × Bool) : (matchedResponse c x sba sbb operation).Given := by
  unfold matchedResponse
  cases checkMatched c x sba sbb with
  | error e => exact .error e
  | ok sb => exact .result sb _ _

theorem valueResponse_given (c : Config) (x : Inputs) (sba sbb : SignField) : (valueResponse c x sba sbb).Given := by
  unfold valueResponse
  cases checkBinary c x sba sbb with
  | error e => exact .error e
  | ok _ => exact .compared _ _

theorem responseOf_given (c : Config) (x : Inputs) (i : Instr) : (responseOf c x i).Given := by
  cases i with
  | inc sba | dec sba | neg sba => exact unaryResponse_given c x sba _
  | cmp sba sbb => exact valueResponse_given c x sba sbb
  | add sba sbb | adc sba sbb | sub sba sbb | and sba sbb | or sba sbb | xor sba sbb | nand sba sbb | nor sba sbb
  | xnor sba sbb | map _ sba sbb => exact matchedResponse_given c x sba sbb _

theorem responseOfWord_given (c : Config) (x : Inputs) : (responseOfWord c x).Given := by
  unfold responseOfWord
  cases decode x.cw with
  | ok i => exact responseOf_given c x i
  | error _ => exact .error .illegal

/-- An error response meets the bound too: its `R` and `WR` are 0 (60_exceptions.md R300). -/
theorem Response.Given.ports_r_lt {r : Response} (h : r.Given) : r.ports.r < 2 ^ r.ports.wr := by
  cases h with
  | error e => exact Nat.two_pow_pos 0
  | result sb L y => exact and_mask_lt y.1 L
  | compared va vb => exact Nat.two_pow_pos 1

/-! ### The values of a sign behaviour -/

/-- The top bit tells the upper half of the patterns from the lower half (00_scope.md R10). -/
theorem topBit_eq_decide {v n : Nat} (hn : 1 ≤ n) (hv : v < 2 ^ n) : topBit v n = decide (2 ^ (n - 1) ≤ v) := by
  unfold topBit
  by_cases h : 2 ^ (n - 1) ≤ v
  · rw [decide_eq_true h]
    exact Nat.testBit_of_two_pow_le_and_two_pow_add_one_gt h (by rwa [Nat.sub_add_cancel hn])
  · rw [decide_eq_false h]
    exact Nat.testBit_lt_two_pow (Nat.lt_of_not_le h)

/-- The patterns of a width are two halves of equal size. -/
theorem two_pow_eq_half_add_half {n : Nat} (hn : 1 ≤ n) : 2 ^ n = 2 ^ (n - 1) + 2 ^ (n - 1) := by
  rw [← Nat.two_mul, ← Nat.pow_succ', Nat.succ_eq_add_one, Nat.sub_add_cancel hn]

@[simp] theorem val_unsigned (v n : Nat) : val v n .unsigned = v := rfl

/-- Signed takes `2^n` off the upper half (40_datapath.md R130). -/
theorem val_signed {v n : Nat} (hn : 1 ≤ n) (hv : v < 2 ^ n) :
    val v n .signed = if 2 ^ (n - 1) ≤ v then (v : Int) - 2 ^ n else v := by
  rw [val, topBit_eq_decide hn hv]
  by_cases h : 2 ^ (n - 1) ≤ v <;> simp [h]

/-- Under Magnitude the upper half counts down from -0 (40_datapath.md R130). -/
theorem val_magnitude {v n : Nat} (hn : 1 ≤ n) (hv : v < 2 ^ n) :
    val v n .magnitude = if 2 ^ (n - 1) ≤ v then (2 : Int) ^ (n - 1) - v else v := by
  have hhalf := two_pow_eq_half_add_half hn
  rw [val, topBit_eq_decide hn hv, and_mask]
  by_cases h : 2 ^ (n - 1) ≤ v
  · have hmod : v % 2 ^ (n - 1) = v - 2 ^ (n - 1) := by
      rw [Nat.mod_eq_sub_mod h, Nat.mod_eq_of_lt (by omega)]
    simp [h, hmod]
  · have hmod : v % 2 ^ (n - 1) = v := Nat.mod_eq_of_lt (by omega)
    simp [h, hmod]

theorem val_inRange {v n : Nat} (hn : 1 ≤ n) (hv : v < 2 ^ n) (sb : SignBehavior) : inRange (val v n sb) n sb := by
  have hhalf := two_pow_eq_half_add_half hn
  zify at hhalf
  have hv' : (v : Int) < 2 ^ n := mod_cast hv
  cases sb with
  | unsigned =>
    simp only [inRange, val_unsigned]
    omega
  | signed =>
    simp only [inRange, val_signed hn hv]
    split_ifs with h <;> zify at h <;> omega
  | magnitude =>
    simp only [inRange, val_magnitude hn hv]
    split_ifs with h <;> zify at h <;> omega

/-- A pattern for a value: the value itself where it is not negative; below 0, its residue under Signed and the top bit with its
absolute value under Magnitude (10_state.md R37). -/
def patternOf (z : Int) (n : Nat) : SignBehavior → Nat
  | .unsigned => z.toNat
  | .signed => truncInt n z
  | .magnitude => if 0 ≤ z then z.toNat else 2 ^ (n - 1) + (-z).toNat

theorem truncInt_lt (n : Nat) (z : Int) : truncInt n z < 2 ^ n := by
  rw [truncInt, Int.toNat_lt_of_ne_zero (Nat.two_pow_pos n).ne']
  exact_mod_cast Int.emod_lt_of_pos z (by positivity)

/-- Under Signed a value in range is the value of its residue. -/
theorem val_truncInt_signed {z : Int} {n : Nat} (hn : 1 ≤ n) (hz : inRange z n .signed) :
    val (truncInt n z) n .signed = z := by
  obtain ⟨hlow, hhigh⟩ := hz
  have hhalf := two_pow_eq_half_add_half hn
  rw [val_signed hn (truncInt_lt n z)]
  zify at hhalf ⊢
  rcases lt_or_ge z 0 with hneg | hpos
  · have hres : (truncInt n z : Int) = z + 2 ^ n := by
      rw [truncInt, ← Int.add_emod_right, Int.emod_eq_of_lt (by omega) (by omega), Int.toNat_of_nonneg (by omega)]
    rw [hres, if_pos (by omega), add_sub_cancel_right]
  · have hres : (truncInt n z : Int) = z := by
      rw [truncInt, Int.emod_eq_of_lt hpos (by omega), Int.toNat_of_nonneg hpos]
    rw [hres, if_neg (by omega)]

/-- The pattern of a value in range stays within the width. -/
theorem patternOf_lt {z : Int} {n : Nat} {sb : SignBehavior} (hn : 1 ≤ n) (hz : inRange z n sb) :
    patternOf z n sb < 2 ^ n := by
  have hhalf := two_pow_eq_half_add_half hn
  cases sb with
  | unsigned =>
    obtain ⟨hlow, hhigh⟩ := hz
    rw [patternOf]
    zify
    omega
  | signed => exact truncInt_lt n z
  | magnitude =>
    obtain ⟨hlow, hhigh⟩ := hz
    rw [patternOf]
    zify at hhalf ⊢
    split_ifs <;> omega

/-- The pattern of a value in range has that value. -/
theorem val_patternOf {z : Int} {n : Nat} {sb : SignBehavior} (hn : 1 ≤ n) (hz : inRange z n sb) :
    val (patternOf z n sb) n sb = z := by
  have hlt := patternOf_lt hn hz
  cases sb with
  | unsigned => exact Int.toNat_of_nonneg hz.1
  | signed => exact val_truncInt_signed hn hz
  | magnitude =>
    obtain ⟨hlow, hhigh⟩ := hz
    rw [val_magnitude hn hlt, patternOf]
    zify
    split_ifs <;> omega

/-- The two patterns of value 0 under Magnitude: 0 begins the lower half, -0 the upper half (10_state.md R37). -/
theorem val_magnitude_eq_zero_iff {v n : Nat} (hn : 1 ≤ n) (hv : v < 2 ^ n) :
    val v n .magnitude = 0 ↔ v = 0 ∨ v = 2 ^ (n - 1) := by
  have hpos := Nat.two_pow_pos (n - 1)
  rw [val_magnitude hn hv]
  zify at hpos ⊢
  split_ifs <;> omega

/-! ### The obligations -/

/-- Settles O5: reading back undoes the port form, and the port form undoes reading back. -/
theorem responseFormsOneToOne : Obligations.ResponseFormsOneToOne :=
  ⟨response?_ports, fun _ _ h => ports_of_response? h⟩

/-- Settles O10: driving holds the inputs, so the step answers, and the answer takes the parameter and the request alone. -/
theorem nothingSurvivesARequest : Obligations.NothingSurvivesARequest := by
  intro s x
  exact ⟨_, step_eq_answer (s.drive_held x), respond_eq s.cfg x⟩

/-- Settles O39: each kind of response keeps `R` below `2^WR`, and a number below `2^WR` has no bit at `WR` or above. -/
theorem maskInvariant : Obligations.MaskInvariant := by
  intro s t hstep _
  obtain ⟨-, rfl⟩ := eq_answer_of_step hstep
  have hlt := (responseOfWord_given s.cfg s.inp).ports_r_lt
  exact ⟨hlt, fun k hk => Nat.testBit_lt_two_pow (hlt.trans_le (Nat.pow_le_pow_right (by decide) hk))⟩

/-- Settles O44: `patternOf` reaches every value of the range. -/
theorem valueRanges : Obligations.ValueRanges := by
  intro n hn
  exact ⟨fun sb _ hv => val_inRange hn hv sb, fun _ _ hz => ⟨_, patternOf_lt hn hz, val_patternOf hn hz⟩,
    fun _ hv => val_magnitude_eq_zero_iff hn hv⟩

end Sys2Proof.Machine
end

section
/-! The memory statements (20_memory.md): the block has no memory and leaves its operands alone, so an instruction changes the output
ports only, and a step does not see the response that they show. -/

namespace Sys2Proof.Machine

/-! ### A step and the earlier response -/

/-- While the inputs change, a step stops (70_reset_and_hazards.md R344). -/
theorem step_eq_fault {s : State} (h : s.held = false) : step s = .fault .inputsChanging := by
  rw [step, serveHeld, h]
  rfl

/-- A step does not depend on what the output ports show (10_state.md R30). -/
theorem step_answer (s : State) (r : Response) : step (s.answer r) = step s := by
  cases hheld : s.held with
  | false => rw [step_eq_fault hheld, step_eq_fault (s := s.answer r) hheld]
  | true =>
    rw [step_eq_answer hheld, step_eq_answer (s := s.answer r) hheld, State.answer_answer, State.answer_cfg,
      State.answer_inp]

/-! ### The obligations -/

/-- Settles O9: the next state is the old one with the port form of the response on its output ports. -/
theorem execChangesOutputsOnly : Obligations.ExecChangesOutputsOnly := by
  intro i s
  exact ⟨(responseOf s.cfg s.inp i).ports, exec_eq_answer i s⟩

/-- Settles O11: the next state is an answer, which has the same inputs and steps as the state before it did. -/
theorem repeatingARequest : Obligations.RepeatingARequest := by
  intro s t hstep
  obtain ⟨-, rfl⟩ := eq_answer_of_step hstep
  exact ⟨s.answer_inp _, (step_answer s _).trans hstep⟩

end Sys2Proof.Machine
end

section
/-! The encoding statements (30_encoding.md): decoder, encoder and opcode table say the same of a control word's fields; the inputs
that an operation does not read; and what the host writes: lines, pseudo-instructions, programs and listings. -/

namespace Sys2Proof.Machine

/-! ### A control word and its fields (30_encoding.md R81) -/

section
variable (top : BitVec 4) (sbb sba : Code2) (tt : TruthTable) (op : BitVec 4)

@[simp] theorem opField_packWord : opField (packWord top sbb sba tt op) = op :=
  BitVec.extractLsb'_append_eq_right

@[simp] theorem ttField_packWord : ttField (packWord top sbb sba tt op) = tt :=
  (BitVec.extractLsb'_append_eq_of_le (by decide)).trans BitVec.extractLsb'_append_eq_right

@[simp] theorem sbaField_packWord : sbaField (packWord top sbb sba tt op) = sba :=
  (BitVec.extractLsb'_append_eq_of_le (by decide)).trans <|
    (BitVec.extractLsb'_append_eq_of_le (by decide)).trans BitVec.extractLsb'_append_eq_right

@[simp] theorem sbbField_packWord : sbbField (packWord top sbb sba tt op) = sbb :=
  (BitVec.extractLsb'_append_eq_of_le (by decide)).trans <|
    (BitVec.extractLsb'_append_eq_of_le (by decide)).trans <|
      (BitVec.extractLsb'_append_eq_of_le (by decide)).trans BitVec.extractLsb'_append_eq_right

@[simp] theorem topField_packWord : topField (packWord top sbb sba tt op) = top :=
  (BitVec.extractLsb'_append_eq_of_le (by decide)).trans <|
    (BitVec.extractLsb'_append_eq_of_le (by decide)).trans <|
      (BitVec.extractLsb'_append_eq_of_le (by decide)).trans BitVec.extractLsb'_append_eq_left

end

/-- The five fields are the whole word: no bit stands outside them. -/
theorem packWord_fields (cw : ControlWord) :
    packWord (topField cw) (sbbField cw) (sbaField cw) (ttField cw) (opField cw) = cw := by
  have top_sbb : topField cw ++ sbbField cw = cw.extractLsb' 10 6 :=
    BitVec.extractLsb'_append_extractLsb'_eq_extractLsb' rfl
  have to_sba : cw.extractLsb' 10 6 ++ sbaField cw = cw.extractLsb' 8 8 :=
    BitVec.extractLsb'_append_extractLsb'_eq_extractLsb' rfl
  have to_tt : cw.extractLsb' 8 8 ++ ttField cw = cw.extractLsb' 4 12 :=
    BitVec.extractLsb'_append_extractLsb'_eq_extractLsb' rfl
  have to_op : cw.extractLsb' 4 12 ++ opField cw = cw.extractLsb' 0 16 :=
    BitVec.extractLsb'_append_extractLsb'_eq_extractLsb' rfl
  rw [packWord, top_sbb, to_sba, to_tt, to_op, BitVec.extractLsb'_eq_self]

/-- Words are equal where their fields are. -/
theorem controlWord_eq_iff (v w : ControlWord) :
    v = w ↔ topField v = topField w ∧ sbbField v = sbbField w ∧ sbaField v = sbaField w ∧ ttField v = ttField w ∧
      opField v = opField w := by
  constructor
  · rintro rfl
    exact ⟨rfl, rfl, rfl, rfl, rfl⟩
  · rintro ⟨htop, hsbb, hsba, htt, hop⟩
    rw [← packWord_fields v, htop, hsbb, hsba, htt, hop, packWord_fields]

/-! ### Decoder and encoder (30_encoding.md R82 to R86, R91) -/

/-- The must-be-zero fields of R86 are zero: the top bits, `TT` except on MAP, `SBB` on the unary operations. -/
def FieldsLegal (cw : ControlWord) : Prop :=
  topField cw = 0#4 ∧ (opField cw ≠ 0xC#4 → ttField cw = 0#4) ∧
    (binaryOpcode (opField cw) = false → sbbField cw = 0#2)

/-- The operation that `OP` names with the other fields of the word. -/
def namedInstr (cw : ControlWord) : Option Instr :=
  instrOfOp (opField cw) (ttField cw) (signFieldOfCode (sbaField cw)) (signFieldOfCode (sbbField cw))

theorem binaryOpcode_opOfInstr (i : Instr) : binaryOpcode (opOfInstr i) = i.isBinary := by cases i <;> rfl

/-- What the operation of an opcode is made of. -/
theorem instrOfOp_fields {op : BitVec 4} {tt : TruthTable} {a b : SignField} {i : Instr}
    (h : instrOfOp op tt a b = some i) :
    opOfInstr i = op ∧ i.sba = a ∧ i.sbb? = (if i.isBinary then some b else none) ∧
      ttOfInstr i = (if opOfInstr i = 0xC#4 then tt else 0#4) := by
  unfold instrOfOp at h
  split at h <;> cases h
  all_goals
    rename_i hop
    exact ⟨BitVec.eq_of_toNat_eq hop.symm, rfl, rfl, rfl⟩

/-- An instruction is the operation of its own opcode and fields. -/
theorem instrOfOp_opOfInstr (i : Instr) :
    instrOfOp (opOfInstr i) (ttOfInstr i) i.sba (signFieldOfCode (sbbCodeOfInstr i)) = some i := by
  cases i <;> simp [instrOfOp, opOfInstr, ttOfInstr, Instr.sba, sbbCodeOfInstr, Instr.sbb?]

/-- Everything the decoder accepts. -/
theorem decode_eq_ok_iff (cw : ControlWord) (i : Instr) :
    decode cw = .ok i ↔ FieldsLegal cw ∧ namedInstr cw = some i := by
  rw [decode, ← namedInstr, FieldsLegal]
  cases hnamed : namedInstr cw with
  | none =>
    dsimp only
    split_ifs <;> simp
  | some j =>
    obtain ⟨hop, -⟩ := instrOfOp_fields hnamed
    have hbin : binaryOpcode (opField cw) = j.isBinary := by rw [← hop, binaryOpcode_opOfInstr]
    rw [hbin]
    dsimp only
    split_ifs with htop htt hsbb
    · simp [htop]
    · simp [htt]
    · simp [hsbb]
    · simp_all

/-- An instruction's word names the instruction. -/
theorem namedInstr_encode (i : Instr) : namedInstr (encode i) = some i := by
  simp [namedInstr, encode, instrOfOp_opOfInstr]

/-- An instruction's word has its must-be-zero fields zero. -/
theorem fieldsLegal_encode (i : Instr) : FieldsLegal (encode i) := by
  simp only [FieldsLegal, encode, topField_packWord, opField_packWord, ttField_packWord, sbbField_packWord,
    binaryOpcode_opOfInstr]
  cases i <;> simp [opOfInstr, ttOfInstr, Instr.isBinary, sbbCodeOfInstr, Instr.sbb?]

theorem decode_encode (i : Instr) : decode (encode i) = .ok i :=
  (decode_eq_ok_iff _ i).2 ⟨fieldsLegal_encode i, namedInstr_encode i⟩

/-- A word with its must-be-zero fields zero is the word of the instruction that it names. -/
theorem encode_eq_of_namedInstr {cw : ControlWord} {i : Instr} (hlegal : FieldsLegal cw)
    (hnamed : namedInstr cw = some i) : encode i = cw := by
  obtain ⟨htop, htt, hsbb⟩ := hlegal
  obtain ⟨hop, hsba, hsbb', htt'⟩ := instrOfOp_fields hnamed
  rw [← hop, binaryOpcode_opOfInstr] at hsbb
  rw [← hop] at htt
  rw [controlWord_eq_iff]
  simp only [encode, topField_packWord, opField_packWord, ttField_packWord, sbbField_packWord, sbaField_packWord]
  refine ⟨htop.symm, ?_, ?_, ?_, hop⟩
  · rw [sbbCodeOfInstr, hsbb']
    cases hbin : i.isBinary with
    | true => exact codeOfSignField_signFieldOfCode _
    | false => exact (hsbb hbin).symm
  · rw [hsba, codeOfSignField_signFieldOfCode]
  · rw [htt']
    split_ifs with h
    · rfl
    · exact (htt h).symm

/-! ### The opcode table (30_encoding.md R86) -/

section
variable (v w : ControlWord)

theorem topField_and : topField (v &&& w) = topField v &&& topField w := BitVec.extractLsb'_and
theorem sbbField_and : sbbField (v &&& w) = sbbField v &&& sbbField w := BitVec.extractLsb'_and
theorem sbaField_and : sbaField (v &&& w) = sbaField v &&& sbaField w := BitVec.extractLsb'_and
theorem ttField_and : ttField (v &&& w) = ttField v &&& ttField w := BitVec.extractLsb'_and
theorem opField_and : opField (v &&& w) = opField v &&& opField w := BitVec.extractLsb'_and

end

/-- Every row fixes the top bits and `OP`, `TT` except on MAP, and `SBB` on the unary operations; all but `OP` to zero. -/
theorem mask_value_of_mem_opcodeTable : ∀ row ∈ opcodeTable,
    row.mask = packWord (BitVec.allOnes 4) (if binaryOpcode row.op then 0#2 else BitVec.allOnes 2) 0#2
      (if row.op = 0xC#4 then 0#4 else BitVec.allOnes 4) (BitVec.allOnes 4) ∧
    row.value = packWord 0#4 0#2 0#2 0#4 row.op := by
  decide

theorem eq_of_op_eq_of_mem_opcodeTable :
    ∀ r₁ ∈ opcodeTable, ∀ r₂ ∈ opcodeTable, r₁.op = r₂.op → r₁ = r₂ := by
  decide

theorem exists_row_op_eq (i : Instr) : ∃ row ∈ opcodeTable, row.op = opOfInstr i := by
  cases i <;> (dsimp only [opOfInstr]; decide)

theorem exists_instrOfOp_row {row : OpcodeRow} (hrow : row ∈ opcodeTable) (tt : TruthTable) (a b : SignField) :
    ∃ i, instrOfOp row.op tt a b = some i := by
  revert row
  simp [opcodeTable, instrOfOp]

/-- A field that the mask covers unless `p` is masked to zero where `p` holds or the field is zero. -/
theorem and_ite_allOnes_eq_zero_iff {n : Nat} (p : Prop) [Decidable p] (v : BitVec n) :
    (v &&& if p then 0#n else BitVec.allOnes n) = 0#n ↔ (¬p → v = 0#n) := by
  split <;> simp [*]

/-- A word fits a row where its must-be-zero fields are zero and it has the row's opcode. -/
theorem fits_iff {row : OpcodeRow} (hrow : row ∈ opcodeTable) (cw : ControlWord) :
    row.fits cw = true ↔ FieldsLegal cw ∧ opField cw = row.op := by
  obtain ⟨hmask, hvalue⟩ := mask_value_of_mem_opcodeTable row hrow
  rw [OpcodeRow.fits, beq_iff_eq, hmask, hvalue, controlWord_eq_iff, FieldsLegal]
  simp only [topField_and, sbbField_and, sbaField_and, ttField_and, opField_and, topField_packWord, sbbField_packWord,
    sbaField_packWord, ttField_packWord, opField_packWord, BitVec.and_allOnes, BitVec.and_zero,
    and_ite_allOnes_eq_zero_iff]
  by_cases hop : opField cw = row.op
  · simp [hop, and_comm]
  · simp [hop]

/-- A word whose opcode some row has names an instruction. -/
theorem exists_decode_of_fits {row : OpcodeRow} (hrow : row ∈ opcodeTable) {cw : ControlWord}
    (hfits : row.fits cw = true) : ∃ i, decode cw = .ok i ∧ opOfInstr i = row.op := by
  obtain ⟨hlegal, hop⟩ := (fits_iff hrow cw).1 hfits
  obtain ⟨i, hi⟩ := exists_instrOfOp_row hrow (ttField cw) (signFieldOfCode (sbaField cw)) (signFieldOfCode (sbbField cw))
  have hnamed : namedInstr cw = some i := by rw [namedInstr, hop, hi]
  exact ⟨i, (decode_eq_ok_iff cw i).2 ⟨hlegal, hnamed⟩, (instrOfOp_fields hi).1⟩

theorem exists_fits_of_decode {cw : ControlWord} {i : Instr} (h : decode cw = .ok i) :
    ∃ row ∈ opcodeTable, row.fits cw = true ∧ row.op = opOfInstr i := by
  obtain ⟨hlegal, hnamed⟩ := (decode_eq_ok_iff cw i).1 h
  obtain ⟨row, hrow, hop⟩ := exists_row_op_eq i
  exact ⟨row, hrow, (fits_iff hrow cw).2 ⟨hlegal, (instrOfOp_fields hnamed).1.symm.trans hop.symm⟩, hop⟩

/-- A word that does not decode is answered ILLEGAL (30_encoding.md R92). -/
theorem step_of_decode_error {s : State} {e : DecodeError} (hheld : s.held = true) (h : decode s.inp.cw = .error e) :
    step s = .next (s.raise .illegal) := by
  rw [step_eq_answer hheld, responseOfWord, h]
  rfl

/-! ### What a response does not read (30_encoding.md R87) -/

theorem responseOf_ignores_cin (c : Config) (x : Inputs) (cin : Bool) {i : Instr} (hadc : ∀ sba sbb, i ≠ .adc sba sbb) :
    responseOf c { x with cin := cin } i = responseOf c x i := by
  cases i with
  | adc sba sbb => exact absurd rfl (hadc sba sbb)
  | _ => rfl

theorem responseOf_ignores_operandB (c : Config) (x : Inputs) (b wb : Nat) {i : Instr} (hunary : i.isBinary = false) :
    responseOf c { x with b := b, wb := wb } i = responseOf c x i := by
  cases i with
  | inc _ | dec _ | neg _ => rfl
  | _ => cases hunary

/-- A request with the same response has the same next state, but for its inputs. -/
theorem exec_eq_of_responseOf_eq {i : Instr} {s t : State} {x : Inputs} (hexec : exec i s = .next t)
    (hresp : responseOf s.cfg x i = responseOf s.cfg s.inp i) :
    exec i { s with inp := x } = .next { t with inp := x } := by
  rw [exec_eq_answer] at hexec ⊢
  cases hexec
  rw [hresp]
  rfl

/-! ### Sign fields and errors (60_exceptions.md R304, R307, R308) -/

@[simp] theorem fieldOfSign_ne_reserved (sb : SignBehavior) : fieldOfSign sb ≠ .reserved := by cases sb <;> decide

@[simp] theorem signFieldOfCode_codeOfSign (sb : SignBehavior) : signFieldOfCode (codeOfSign sb) = fieldOfSign sb :=
  signFieldOfCode_codeOfSignField _

theorem exists_eq_fieldOfSign {f : SignField} (h : f ≠ .reserved) : ∃ sb, f = fieldOfSign sb := by
  obtain ⟨sb, hsb⟩ := Option.ne_none_iff_exists'.1 fun hnone => h ((signOfField_eq_none_iff f).1 hnone)
  exact ⟨sb, eq_fieldOfSign_of_signOfField hsb⟩

theorem signsLegal_iff (i : Instr) : i.signsLegal = true ↔ i.sba ≠ .reserved ∧ i.sbb? ≠ some .reserved := by
  simp [Instr.signsLegal]

theorem checkMatched_mismatch {c : Config} {x : Inputs} (hw : x.widthsFit c) {sa sb : SignBehavior} (hne : sa ≠ sb) :
    checkMatched c x (fieldOfSign sa) (fieldOfSign sb) = .error .signMismatch := by
  rw [checkMatched, (checkBinary_eq_ok_iff c x _ _ sa sb).2 ⟨rfl, rfl, hw⟩]
  exact if_neg hne

section
variable {c : Config} {x : Inputs} {sba sbb : SignField}

theorem unaryResponse_err (ha : sba ≠ .reserved) (hw : x.wa ≤ c.nmax)
    (operation : SignBehavior → Nat → Nat → Nat × Bool) : (unaryResponse c x sba operation).ports.err = 0#3 := by
  obtain ⟨sb, rfl⟩ := exists_eq_fieldOfSign ha
  rw [unaryResponse_ok c x sb hw]
  rfl

theorem matchedResponse_err (ha : sba ≠ .reserved) (hb : sbb ≠ .reserved) (hw : x.widthsFit c)
    (operation : SignBehavior → Nat → Nat → Nat → Nat × Bool) :
    (matchedResponse c x sba sbb operation).ports.err = 0#3 ∨ (matchedResponse c x sba sbb operation).ports.err = 4#3 := by
  obtain ⟨sa, rfl⟩ := exists_eq_fieldOfSign ha
  obtain ⟨sb, rfl⟩ := exists_eq_fieldOfSign hb
  by_cases hsame : sa = sb
  · subst hsame
    rw [matchedResponse_ok c x sa hw]
    exact .inl rfl
  · rw [matchedResponse, checkMatched_mismatch hw hsame]
    exact .inr rfl

theorem valueResponse_err (ha : sba ≠ .reserved) (hb : sbb ≠ .reserved) (hw : x.widthsFit c) :
    (valueResponse c x sba sbb).ports.err = 0#3 := by
  obtain ⟨sa, rfl⟩ := exists_eq_fieldOfSign ha
  obtain ⟨sb, rfl⟩ := exists_eq_fieldOfSign hb
  rw [valueResponse_ok c x sa sb hw]
  rfl

end

/-- With no reserved sign field and widths that fit, SIGN_MISMATCH is the only error left. -/
theorem responseOf_err {c : Config} {x : Inputs} {i : Instr} (hsigns : i.signsLegal = true) (hw : x.widthsFit c) :
    (responseOf c x i).ports.err = 0#3 ∨ (responseOf c x i).ports.err = 4#3 := by
  obtain ⟨ha, hb⟩ := (signsLegal_iff i).1 hsigns
  cases i with
  | inc _ | dec _ | neg _ => exact .inl (unaryResponse_err ha hw.1 _)
  | cmp _ sbb => exact .inl (valueResponse_err ha (fun h => hb (congrArg some h)) hw)
  | add _ sbb | adc _ sbb | sub _ sbb | and _ sbb | or _ sbb | xor _ sbb | nand _ sbb | nor _ sbb | xnor _ sbb
  | map _ _ sbb => exact matchedResponse_err ha (fun h => hb (congrArg some h)) hw _

theorem respond_of_decode {c : Config} {x : Inputs} {i : Instr} (h : decode x.cw = .ok i) :
    respond c x = some (responseOf c x i).ports := by
  rw [respond_eq, responseOfWord, h]

/-! ### Assembled lines (30_encoding.md R95, R96) -/

theorem Literal.fits_iff (c : Config) (l : Literal) :
    l.fits c = true ↔ 1 ≤ l.width ∧ l.width ≤ c.nmax ∧ l.pattern < 2 ^ l.width := by
  simp [Literal.fits, and_assoc]

theorem Literal.pattern_lt_of_fits {c : Config} {l : Literal} (h : l.fits c = true) : l.pattern < 2 ^ c.nmax := by
  obtain ⟨-, hwidth, hpattern⟩ := (l.fits_iff c).1 h
  exact hpattern.trans_le (Nat.pow_le_pow_right (by decide) hwidth)

theorem le_nmax_lt_two_pow_wbits {c : Config} {w : Nat} (h : w ≤ c.nmax) : w < 2 ^ c.wbits :=
  h.trans_lt Nat.lt_log2_self

theorem Mnemonic.binaryOpcode_op (m : Mnemonic) : binaryOpcode m.op = !m.isUnary := by cases m <;> rfl

theorem Mnemonic.exists_instrOfOp (m : Mnemonic) (tt : TruthTable) (a b : SignField) :
    ∃ i, instrOfOp m.op tt a b = some i := by
  cases m <;> exact ⟨_, rfl⟩

/-- The ports that a line drives where the assembler accepts it. -/
def AsmLine.request (l : AsmLine Literal Bool) : Inputs :=
  { cw := packWord 0#4 ((l.b.map fun b => codeOfSign b.sb).getD 0#2) (codeOfSign l.a.sb) (l.tt.getD 0#4) l.op.op
    a := l.a.pattern
    wa := l.a.width
    b := (l.b.map fun b => b.pattern).getD 0
    wb := (l.b.map fun b => b.width).getD 0
    cin := l.cin.getD false }

theorem assemble_eq_some_iff (c : Config) (l : AsmLine Literal Bool) (x : Inputs) :
    assemble c l = some x ↔
      l.wellFormed = true ∧ l.a.fits c = true ∧ (∀ b, l.b = some b → b.fits c = true) ∧ l.request = x := by
  rw [assemble]
  cases hb : l.b <;> simp [AsmLine.request, and_assoc, hb]

/-- The word of a well-formed line has its must-be-zero fields zero: `.tt` stands on MAP only and `opB` on no unary operation. -/
theorem AsmLine.fieldsLegal_request {l : AsmLine Literal Bool} (h : l.wellFormed = true) : FieldsLegal l.request.cw := by
  simp only [AsmLine.wellFormed, Bool.and_eq_true, beq_iff_eq] at h
  obtain ⟨⟨htt, hb⟩, -⟩ := h
  simp only [FieldsLegal, AsmLine.request, topField_packWord, opField_packWord, ttField_packWord, sbbField_packWord,
    Mnemonic.binaryOpcode_op]
  refine ⟨trivial, fun hop => ?_, fun hunary => ?_⟩
  · have hmap : l.op ≠ .map := fun hmap => hop (by rw [hmap]; rfl)
    have hnone : l.tt = none := by simpa [beq_eq_false_iff_ne.2 hmap] using htt
    rw [hnone]
    rfl
  · have hnone : l.b = none := by simpa [hunary] using hb
    rw [hnone]
    rfl

/-- The `SBB` field of a line's word is a behaviour's code, 00 where there is no `opB`. -/
theorem AsmLine.exists_sbbField_request (l : AsmLine Literal Bool) : ∃ sb, sbbField l.request.cw = codeOfSign sb := by
  rw [AsmLine.request, sbbField_packWord]
  cases l.b with
  | none => exact ⟨.unsigned, rfl⟩
  | some b => exact ⟨b.sb, rfl⟩

theorem AsmLine.decode_request {l : AsmLine Literal Bool} (h : l.wellFormed = true) :
    ∃ i, decode l.request.cw = .ok i ∧ opOfInstr i = l.op.op ∧ i.signsLegal = true := by
  obtain ⟨sb, hsb⟩ := l.exists_sbbField_request
  obtain ⟨i, hi⟩ := l.op.exists_instrOfOp (l.tt.getD 0#4) (fieldOfSign l.a.sb) (fieldOfSign sb)
  obtain ⟨hop, hsba, hsbb, -⟩ := instrOfOp_fields hi
  have hnamed : namedInstr l.request.cw = some i := by
    rw [namedInstr, hsb, signFieldOfCode_codeOfSign, ← hi]
    simp [AsmLine.request]
  refine ⟨i, (decode_eq_ok_iff _ i).2 ⟨fieldsLegal_request h, hnamed⟩, hop, (signsLegal_iff i).2 ⟨?_, ?_⟩⟩
  · rw [hsba]
    exact fieldOfSign_ne_reserved _
  · rw [hsbb]
    split <;> simp

theorem fit_of_assemble {c : Config} {l : AsmLine Literal Bool} {x : Inputs} (h : assemble c l = some x) :
    x.fit c ∧ x.widthsFit c := by
  obtain ⟨-, ha, hb, rfl⟩ := (assemble_eq_some_iff c l x).1 h
  have hwa : l.a.width ≤ c.nmax := ((l.a.fits_iff c).1 ha).2.1
  have hB : l.request.b < 2 ^ c.nmax ∧ l.request.wb ≤ c.nmax := by
    rw [AsmLine.request]
    cases hlb : l.b with
    | none => exact ⟨Nat.two_pow_pos _, Nat.zero_le _⟩
    | some b => exact ⟨Literal.pattern_lt_of_fits (hb b hlb), ((b.fits_iff c).1 (hb b hlb)).2.1⟩
  exact ⟨⟨Literal.pattern_lt_of_fits ha, le_nmax_lt_two_pow_wbits hwa, hB.1, le_nmax_lt_two_pow_wbits hB.2⟩, hwa, hB.2⟩

/-! ### MAP, bit by bit (45_bitwise.md R251) -/

theorem testBit_toNat_mul_two_pow (v : Bool) (n k : Nat) : (v.toNat * 2 ^ n).testBit k = (decide (k = n) && v) := by
  cases v <;> simp [Nat.testBit_two_pow, eq_comm]

theorem testBit_mapBits (tt : TruthTable) (a b n k : Nat) :
    (mapBits tt a b n).testBit k = (decide (k < n) && ttBit tt (a.testBit k) (b.testBit k)) := by
  induction n with
  | zero => simp [mapBits]
  | succ n ih =>
    rw [mapBits, Nat.testBit_or, ih, testBit_toNat_mul_two_pow]
    rcases lt_trichotomy k n with hlt | rfl | hgt
    · simp [hlt, hlt.ne, hlt.trans (Nat.lt_succ_self n)]
    · simp
    · simp [hgt.not_gt, hgt.ne', Nat.not_lt.2 hgt]

/-- Table value 3 is NOT on operand A, whatever operand B is (45_bitwise.md R252). -/
theorem ttBit_three (a b : Bool) : ttBit 0x3#4 a b = !a := by cases a <;> cases b <;> rfl

theorem mapBits_three {a n : Nat} (h : a < 2 ^ n) (b : Nat) : mapBits 0x3#4 a b n = (2 ^ n - 1) ^^^ a := by
  apply Nat.eq_of_testBit_eq
  intro k
  rw [testBit_mapBits, ttBit_three, Nat.testBit_xor, Nat.testBit_two_pow_sub_one]
  by_cases hk : k < n
  · simp [hk]
  · have hbit : a.testBit k = false :=
      Nat.testBit_lt_two_pow (h.trans_le (Nat.pow_le_pow_right (by decide) (Nat.le_of_not_lt hk)))
    simp [hk, hbit]

/-! ### Pseudo-instructions (30_encoding.md R97) -/

/-- The second operand of the real request. -/
def Pseudo.second (p : Pseudo) (x : Literal) : Literal :=
  match p with
  | .not | .mov => zeroLike x
  | .clr | .tst => x

/-- The instruction of the real request. -/
def Pseudo.instr (p : Pseudo) (f : SignField) : Instr :=
  match p with
  | .not => .map 0x3#4 f f
  | .mov => .or f f
  | .clr => .xor f f
  | .tst => .and f f

/-- The pattern that this instruction gives at a width on two patterns. -/
def Pseudo.pattern (p : Pseudo) (L a b : Nat) : Nat :=
  match p with
  | .not => mapBits 0x3#4 a b L
  | .mov => a ||| b
  | .clr => a ^^^ b
  | .tst => a &&& b

/-- The real request on the ports. -/
def Pseudo.request (p : Pseudo) (x : Literal) : Inputs :=
  { cw := encode (p.instr (fieldOfSign x.sb)), a := x.pattern, wa := x.width, b := (p.second x).pattern,
    wb := (p.second x).width, cin := false }

theorem Pseudo.responseOf_instr (p : Pseudo) (c : Config) (x : Inputs) (f : SignField) :
    responseOf c x (p.instr f) = matchedResponse c x f f (bitwise p.pattern) := by
  cases p <;> rfl

theorem Pseudo.second_fits {c : Config} {x : Literal} (hx : x.fits c = true) (p : Pseudo) : (p.second x).fits c = true := by
  obtain ⟨hpos, hle, -⟩ := (x.fits_iff c).1 hx
  cases p with
  | not | mov => exact (Literal.fits_iff c _).2 ⟨le_rfl, hpos.trans hle, Nat.two_pow_pos 1⟩
  | clr | tst => exact hx

theorem Pseudo.second_width_le {x : Literal} (hpos : 1 ≤ x.width) (p : Pseudo) : (p.second x).width ≤ x.width := by
  cases p with
  | not | mov => exact hpos
  | clr | tst => exact le_rfl

theorem Pseudo.assemble_expand {c : Config} {x : Literal} (hx : x.fits c = true) (p : Pseudo) :
    assemble c (p.expand x) = some (p.request x) := by
  rw [assemble_eq_some_iff]
  have hb : (p.expand x).b = some (p.second x) := by cases p <;> rfl
  refine ⟨by cases p <;> rfl, by cases p <;> exact hx, fun b h => ?_, by cases p <;> rfl⟩
  cases hb.symm.trans h
  exact p.second_fits hx

theorem normWidth_of_pos {w : Nat} (h : 1 ≤ w) : normWidth w = w := if_neg (Nat.one_le_iff_ne_zero.1 h)

/-- The working width is the operand's own, and both operands reach the operation whole. -/
theorem Pseudo.operands_request {c : Config} {x : Literal} (hx : x.fits c = true) (p : Pseudo) :
    binaryWidth (p.request x) = x.width ∧ operandA (p.request x) = x.pattern ∧
      operandB (p.request x) = (p.second x).pattern := by
  obtain ⟨hpos, -, hlt⟩ := (x.fits_iff c).1 hx
  obtain ⟨hpos', -, hlt'⟩ := ((p.second x).fits_iff c).1 (p.second_fits hx)
  simp only [binaryWidth, operandA, operandB, Pseudo.request, normWidth_of_pos hpos, normWidth_of_pos hpos',
    and_mask_of_lt hlt, and_mask_of_lt hlt', max_eq_left (p.second_width_le hpos), and_self]

/-- A pseudo-instruction's response: its pattern at the operand's width, `FO` 0, and the operand's sign behaviour. -/
theorem Pseudo.respond_expand {c : Config} {x : Literal} (hx : x.fits c = true) (p : Pseudo) :
    (assemble c (p.expand x)).bind (respond c) =
      some (successOutputs x.sb x.width (p.pattern x.width x.pattern (p.second x).pattern &&& mask x.width) false) := by
  have hassemble := p.assemble_expand hx
  obtain ⟨-, hw⟩ := fit_of_assemble hassemble
  obtain ⟨hL, hA, hB⟩ := p.operands_request hx
  have hdecode : decode (p.request x).cw = .ok (p.instr (fieldOfSign x.sb)) := decode_encode _
  rw [hassemble, Option.bind_some, respond_of_decode hdecode, p.responseOf_instr, matchedResponse_ok c _ x.sb hw,
    hL, hA, hB]
  rfl

/-! ### The obligations -/

/-- Settles O1: the fields read back are those that the encoder packed, and name the instruction. -/
theorem decodeEncodeRoundTrip : Obligations.DecodeEncodeRoundTrip := decode_encode

/-- Settles O2: the fields of the word are those that the encoder packs. -/
theorem encodeOfDecodedWord : Obligations.EncodeOfDecodedWord := by
  intro cw i h
  obtain ⟨hlegal, hnamed⟩ := (decode_eq_ok_iff cw i).1 h
  exact encode_eq_of_namedInstr hlegal hnamed

/-- Settles O3: the decoder and each row read the word as the same must-be-zero fields and the same opcode. -/
theorem opcodeTableIsTheDecoder : Obligations.OpcodeTableIsTheDecoder := by
  intro cw
  refine ⟨fun _ hrow => exists_decode_of_fits hrow, fun _ => exists_fits_of_decode, ?_, ?_⟩
  · intro r₁ h₁ r₂ h₂ hfits₁ hfits₂
    have hop₁ := ((fits_iff h₁ cw).1 hfits₁).2
    have hop₂ := ((fits_iff h₂ cw).1 hfits₂).2
    exact eq_of_op_eq_of_mem_opcodeTable r₁ h₁ r₂ h₂ (hop₁.symm.trans hop₂)
  · rintro s hheld rfl hnone
    cases hdec : decode s.inp.cw with
    | error e => exact step_of_decode_error hheld hdec
    | ok i =>
      obtain ⟨row, hrow, hfits, -⟩ := exists_fits_of_decode hdec
      exact absurd hfits (by simp [hnone row hrow])

/-- Settles O4: each word is written out, so the decoder is evaluated on it. -/
theorem sampleWordsDecode : Obligations.SampleWordsDecode := by
  unfold Obligations.SampleWordsDecode
  decide

/-- Settles O7: a step on held inputs answers with the response to the word, which is that of the decoded instruction. -/
theorem stepRunsDecodedInstruction : Obligations.StepRunsDecodedInstruction := by
  intro s i hheld hdecode
  rw [step_eq_answer hheld, exec_eq_answer, responseOfWord, hdecode]

/-- Settles O12: the response is a function of the inputs that the instruction reads. -/
theorem unusedInputsIgnored : Obligations.UnusedInputsIgnored := by
  intro i s t hexec
  exact ⟨fun cin hadc => exec_eq_of_responseOf_eq hexec (responseOf_ignores_cin _ _ cin hadc),
    fun b wb hunary => exec_eq_of_responseOf_eq hexec (responseOf_ignores_operandB _ _ b wb hunary)⟩

/-- Settles O53: each expansion is a bitwise request at the literal's width, with 0 or the literal itself as operand B. -/
theorem pseudoInstructionEffects : Obligations.PseudoInstructionEffects := by
  intro c x hx
  obtain ⟨-, -, hlt⟩ := (x.fits_iff c).1 hx
  have hcomplement : (2 ^ x.width - 1) ^^^ x.pattern < 2 ^ x.width := Nat.xor_lt_two_pow (mask_lt x.width) hlt
  refine ⟨?_, ?_, ?_, ?_⟩ <;> rw [Pseudo.respond_expand hx]
  · rw [Pseudo.pattern, mapBits_three hlt, and_mask_of_lt hcomplement]
  · rw [Pseudo.pattern, Pseudo.second, zeroLike, Nat.or_zero, and_mask_of_lt hlt]
  · rw [Pseudo.pattern, Pseudo.second, Nat.xor_self, Nat.zero_and]
  · rw [Pseudo.pattern, Pseudo.second, Nat.and_self, and_mask_of_lt hlt]

/-- Settles O54: the assembler's checks leave no word that is illegal, no reserved sign field and no width above `NMAX`. -/
theorem assembledLineIsLegal : Obligations.AssembledLineIsLegal := by
  intro c l x h
  obtain ⟨hfit, hwidths⟩ := fit_of_assemble h
  obtain ⟨hwf, -, -, rfl⟩ := (assemble_eq_some_iff c l x).1 h
  obtain ⟨i, hdecode, hop, hsigns⟩ := AsmLine.decode_request hwf
  exact ⟨hfit, ⟨i, hdecode, hop, hsigns⟩, _, respond_of_decode hdecode, responseOf_err hsigns hwidths⟩

/-- Settles O55: by induction on the steps, which go on only after a success. -/
theorem programStopsAtFirstError : Obligations.ProgramStopsAtFirstError := by
  constructor
  · intro p rest s t env n o hrun herr
    simp only [runProgram, hrun, if_neg herr]
  · intro ps
    induction ps with
    | nil => exact fun _ _ henv => henv
    | cons p rest ih =>
      intro s env henv
      unfold runProgram
      split
      case h_1 => exact henv
      case h_2 t n o _ =>
        split
        case isTrue hok => exact ih t _ (List.forall_mem_cons.2 ⟨hok, henv⟩)
        case isFalse => exact henv

/-- Settles O56: the line reads as two Unsigned literals of width 8, and ADD with Unsigned operands is the word 0. -/
theorem listingExample : Obligations.ListingExample :=
  ⟨{ op := .add, tt := none, a := { sb := .unsigned, width := 8, pattern := 0xFF },
      b := some { sb := .unsigned, width := 8, pattern := 0x01 }, cin := none },
    { cw := 0x0000#16, a := 0xFF, wa := 8, b := 0x01, wb := 8, cin := false }, by decide, by decide, by decide⟩

end Sys2Proof.Machine
end

section
/-! The datapath statements (40_datapath.md): what an operand is of its data port and its width port; what a success shows beside its
result; the kernel adder, the negation and the Magnitude conversions in closed form; and the arithmetic operations on Magnitude
values. -/

namespace Sys2Proof.Machine

/-! ### Requests that are read alike (40_datapath.md R120, R121) -/

/-- The bits of a data port below a width. -/
theorem testBit_and_mask (v n k : Nat) : (v &&& mask n).testBit k = (decide (k < n) && v.testBit k) := by
  rw [and_mask, Nat.testBit_mod_two_pow]

theorem and_mask_congr {v w n : Nat} (h : ∀ k < n, v.testBit k = w.testBit k) : v &&& mask n = w &&& mask n := by
  apply Nat.eq_of_testBit_eq
  intro k
  rw [testBit_and_mask, testBit_and_mask]
  by_cases hk : k < n
  · rw [h k hk]
  · simp [hk]

/-- Two requests that give every check and every operation the same to read: `CIN`, the operands, their widths, and whether each
width port holds more than `NMAX`. -/
structure Inputs.ReadAlike (c : Config) (x y : Inputs) : Prop where
  cin : x.cin = y.cin
  patternA : operandA x = operandA y
  patternB : operandB x = operandB y
  widthA : normWidth x.wa = normWidth y.wa
  widthB : normWidth x.wb = normWidth y.wb
  wideA : c.nmax < x.wa ↔ c.nmax < y.wa
  wideB : c.nmax < x.wb ↔ c.nmax < y.wb

section
variable {c : Config} {x y : Inputs}

theorem Inputs.ReadAlike.unaryResponse_eq (h : x.ReadAlike c y) (sba : SignField)
    (operation : SignBehavior → Nat → Nat → Nat × Bool) :
    unaryResponse c x sba operation = unaryResponse c y sba operation := by
  simp only [unaryResponse, checkUnary, unaryWidth, h.patternA, h.widthA, h.wideA]

theorem Inputs.ReadAlike.checkBinary_eq (h : x.ReadAlike c y) (sba sbb : SignField) :
    checkBinary c x sba sbb = checkBinary c y sba sbb := by
  simp only [checkBinary, h.wideA, h.wideB]

theorem Inputs.ReadAlike.matchedResponse_eq (h : x.ReadAlike c y) (sba sbb : SignField)
    (operation : SignBehavior → Nat → Nat → Nat → Nat × Bool) :
    matchedResponse c x sba sbb operation = matchedResponse c y sba sbb operation := by
  simp only [matchedResponse, checkMatched, h.checkBinary_eq, binaryWidth, h.patternA, h.patternB, h.widthA, h.widthB]

theorem Inputs.ReadAlike.valueResponse_eq (h : x.ReadAlike c y) (sba sbb : SignField) :
    valueResponse c x sba sbb = valueResponse c y sba sbb := by
  simp only [valueResponse, h.checkBinary_eq, h.patternA, h.patternB, h.widthA, h.widthB]

/-- Requests that are read alike have the same response, whatever the instruction. -/
theorem Inputs.ReadAlike.responseOf_eq (h : x.ReadAlike c y) (i : Instr) : responseOf c x i = responseOf c y i := by
  cases i with
  | inc sba | dec sba | neg sba => exact h.unaryResponse_eq sba _
  | cmp sba sbb => exact h.valueResponse_eq sba sbb
  | adc sba sbb => rw [responseOf, responseOf, h.cin, h.matchedResponse_eq]
  | add sba sbb | sub sba sbb | and sba sbb | or sba sbb | xor sba sbb | nand sba sbb | nor sba sbb | xnor sba sbb
  | map _ sba sbb => exact h.matchedResponse_eq sba sbb _

end

/-- Bits of the data ports at or above the operands' widths are not read (40_datapath.md R121). -/
theorem readAlike_of_testBit_eq (c : Config) {x : Inputs} {a b : Nat} (ha : ∀ k < normWidth x.wa, a.testBit k = x.a.testBit k)
    (hb : ∀ k < normWidth x.wb, b.testBit k = x.b.testBit k) : Inputs.ReadAlike c { x with a := a, b := b } x where
  cin := rfl
  patternA := and_mask_congr ha
  patternB := and_mask_congr hb
  widthA := rfl
  widthB := rfl
  wideA := Iff.rfl
  wideB := Iff.rfl

/-- A width port at 1 fits `NMAX >= 1`, as a width port at 0 does. -/
theorem nmax_lt_one_iff_lt_zero {c : Config} (hc : c.wf) : c.nmax < 1 ↔ c.nmax < 0 := by
  have : 1 ≤ c.nmax := hc
  omega

theorem readAlike_wa_one {c : Config} (hc : c.wf) {x : Inputs} (hwa : x.wa = 0) :
    Inputs.ReadAlike c { x with wa := 1 } x where
  cin := rfl
  patternA := by simp only [operandA, hwa]; rfl
  patternB := rfl
  widthA := by rw [hwa]; rfl
  widthB := rfl
  wideA := by rw [hwa]; exact nmax_lt_one_iff_lt_zero hc
  wideB := Iff.rfl

theorem readAlike_wb_one {c : Config} (hc : c.wf) {x : Inputs} (hwb : x.wb = 0) :
    Inputs.ReadAlike c { x with wb := 1 } x where
  cin := rfl
  patternA := rfl
  patternB := by simp only [operandB, hwb]; rfl
  widthA := rfl
  widthB := by rw [hwb]; rfl
  wideA := Iff.rfl
  wideB := by rw [hwb]; exact nmax_lt_one_iff_lt_zero hc

/-! ### What a success tells of its request (40_datapath.md R122, R126) -/

/-- The working width of an instruction other than CMP (40_datapath.md R122). -/
def workingWidth (x : Inputs) (i : Instr) : Nat := if i.isBinary then binaryWidth x else unaryWidth x

section
variable {c : Config} {x : Inputs} {sba sbb : SignField}

theorem ports_err_err_ne_zero (e : ErrCode) : (Response.err e).ports.err ≠ 0#3 := (ports_err_ne_zero_iff _).2 ⟨e, rfl⟩

theorem unaryResponse_of_success {operation : SignBehavior → Nat → Nat → Nat × Bool}
    (h : (unaryResponse c x sba operation).ports.err = 0#3) :
    ∃ sb y, sba = fieldOfSign sb ∧ unaryResponse c x sba operation = resultResponse sb (unaryWidth x) y := by
  unfold unaryResponse at h ⊢
  cases hcheck : checkUnary c x sba with
  | error e => rw [hcheck] at h; exact absurd h (ports_err_err_ne_zero e)
  | ok sb => exact ⟨sb, _, ((checkUnary_eq_ok_iff c x sba sb).1 hcheck).1, rfl⟩

theorem matchedResponse_of_success {operation : SignBehavior → Nat → Nat → Nat → Nat × Bool}
    (h : (matchedResponse c x sba sbb operation).ports.err = 0#3) :
    ∃ sb y, sba = fieldOfSign sb ∧ sbb = fieldOfSign sb ∧
      matchedResponse c x sba sbb operation = resultResponse sb (binaryWidth x) y := by
  unfold matchedResponse at h ⊢
  cases hcheck : checkMatched c x sba sbb with
  | error e => rw [hcheck] at h; exact absurd h (ports_err_err_ne_zero e)
  | ok sb =>
    obtain ⟨ha, hb, -⟩ := (checkMatched_eq_ok_iff c x sba sbb sb).1 hcheck
    exact ⟨sb, _, ha, hb, rfl⟩

theorem valueResponse_of_success (h : (valueResponse c x sba sbb).ports.err = 0#3) :
    ∃ va vb, valueResponse c x sba sbb = compareResponse va vb := by
  unfold valueResponse at h ⊢
  cases hcheck : checkBinary c x sba sbb with
  | error e => rw [hcheck] at h; exact absurd h (ports_err_err_ne_zero e)
  | ok signs => exact ⟨_, _, rfl⟩

end

/-- A success of an instruction other than CMP: a result at the working width, under the one behaviour that every sign field of the
instruction names. -/
theorem responseOf_of_success {c : Config} {x : Inputs} {i : Instr} (hcmp : i.isCmp = false)
    (h : (responseOf c x i).ports.err = 0#3) :
    ∃ sb y, i.sba = fieldOfSign sb ∧ (∀ sbb, i.sbb? = some sbb → sbb = fieldOfSign sb) ∧
      responseOf c x i = resultResponse sb (workingWidth x i) y := by
  cases i with
  | inc sba | dec sba | neg sba =>
    obtain ⟨sb, y, ha, hy⟩ := unaryResponse_of_success h
    exact ⟨sb, y, ha, by simp [Instr.sbb?], hy⟩
  | cmp sba sbb => cases hcmp
  | add sba sbb | adc sba sbb | sub sba sbb | and sba sbb | or sba sbb | xor sba sbb | nand sba sbb | nor sba sbb
  | xnor sba sbb | map _ sba sbb =>
    obtain ⟨sb, y, ha, hb, hy⟩ := matchedResponse_of_success h
    exact ⟨sb, y, ha, by rintro _ ⟨⟩; exact hb, hy⟩

/-- A success of CMP is a comparison. -/
theorem responseOf_of_success_cmp {c : Config} {x : Inputs} {i : Instr} (hcmp : i.isCmp = true)
    (h : (responseOf c x i).ports.err = 0#3) : ∃ va vb, responseOf c x i = compareResponse va vb := by
  cases i with
  | cmp sba sbb => exact valueResponse_of_success h
  | _ => cases hcmp

/-- What a next state tells of the instruction that gave it. -/
theorem eq_answer_of_exec {i : Instr} {s t : State} (h : exec i s = .next t) :
    t = s.answer (responseOf s.cfg s.inp i) := by
  rw [exec_eq_answer] at h
  cases h
  rfl

/-! ### The kernel adder (40_datapath.md R140 to R143) -/

/-- The mask clips a set bit where the byte loop's sum has one at index `L` or above. -/
theorem kaddClipped_iff (a b : Nat) (cin : Bool) (L : Nat) :
    kaddClipped a b cin L = true ↔ 2 ^ L ≤ (kaddLoop a b cin (byteCount L)).1 := by
  rw [kaddClipped, bne_iff_ne, Nat.shiftRight_eq_div_pow, Nat.div_ne_zero_iff]
  exact and_iff_right (Nat.two_pow_pos L).ne'

section
variable {L a b : Nat} (ha : a < 2 ^ L) (hb : b < 2 ^ L) (cin : Bool)
include ha hb

/-- The byte loop's sum, with the carry out of the top byte above it, is the exact sum. -/
theorem kaddLoop_add_kaddCarry : (kaddLoop a b cin (byteCount L)).1 + (kaddCarry a b cin L).toNat * 2 ^ (8 * byteCount L) =
    a + b + cin.toNat := by
  rw [kaddCarry, (kaddLoop_exact a b cin (byteCount L)).2, Nat.mod_eq_of_lt (lt_two_pow_byteCount ha),
    Nat.mod_eq_of_lt (lt_two_pow_byteCount hb)]

theorem kadd_fst : (kadd a b cin L).1 = trunc L (a + b + cin.toNat) := by
  have hdvd : 2 ^ L ∣ (kaddCarry a b cin L).toNat * 2 ^ (8 * byteCount L) :=
    Dvd.dvd.mul_left (Nat.pow_dvd_pow 2 (le_eight_mul_byteCount L)) _
  rw [kadd, and_mask, trunc, ← kaddLoop_add_kaddCarry ha hb, Nat.add_mod, Nat.mod_eq_zero_of_dvd hdvd, Nat.add_zero,
    Nat.mod_mod]

/-- The carry leaves the top byte where the exact sum does not fit the bytes. -/
theorem kaddCarry_iff : kaddCarry a b cin L = true ↔ 2 ^ (8 * byteCount L) ≤ a + b + cin.toNat := by
  have hlt := (kaddLoop_exact a b cin (byteCount L)).1
  rw [← kaddLoop_add_kaddCarry ha hb]
  cases kaddCarry a b cin L with
  | false => simpa using hlt
  | true => simp

theorem kadd_snd : (kadd a b cin L).2 = decide (2 ^ L ≤ a + b + cin.toNat) := by
  have hbytes : 2 ^ L ≤ 2 ^ (8 * byteCount L) := Nat.pow_le_pow_right (by decide) (le_eight_mul_byteCount L)
  have hsum := kaddLoop_add_kaddCarry ha hb cin
  rw [Bool.eq_iff_iff, decide_eq_true_iff, kadd, Bool.or_eq_true, kaddClipped_iff]
  cases hcarry : kaddCarry a b cin L with
  | false =>
    have : (kaddLoop a b cin (byteCount L)).1 = a + b + cin.toNat := by simpa [hcarry] using hsum
    simp [this]
  | true => simpa using hbytes.trans ((kaddCarry_iff ha hb cin).1 hcarry)

/-- The kernel adder in closed form (40_datapath.md R142). -/
theorem kadd_eq : kadd a b cin L = (trunc L (a + b + cin.toNat), decide (2 ^ L ≤ a + b + cin.toNat)) :=
  Prod.ext (kadd_fst ha hb cin) (kadd_snd ha hb cin)

/-- Where the top byte has spare bits, the exact sum fits the bytes. -/
theorem kaddCarry_eq_false (hL : L % 8 ≠ 0) : kaddCarry a b cin L = false := by
  have hspare : 2 ^ (L + 1) ≤ 2 ^ (8 * byteCount L) := Nat.pow_le_pow_right (by decide) (by unfold byteCount; omega)
  have hcin := Bool.toNat_le cin
  rw [← Bool.not_eq_true, kaddCarry_iff ha hb]
  omega

end

/-- Where the bytes are full, the byte loop's sum has no bit to clip. -/
theorem kaddClipped_eq_false (a b : Nat) (cin : Bool) {L : Nat} (hL : L % 8 = 0) : kaddClipped a b cin L = false := by
  have hfull : 8 * byteCount L = L := by unfold byteCount; omega
  have hlt := (kaddLoop_exact a b cin (byteCount L)).1
  rw [hfull] at hlt
  rw [← Bool.not_eq_true, kaddClipped_iff]
  exact Nat.not_le.2 hlt

theorem kadd_fst_lt (a b : Nat) (cin : Bool) (L : Nat) : (kadd a b cin L).1 < 2 ^ L := and_mask_lt _ L

/-- A pattern is 0 where the bytes of its width are. -/
theorem kernelZero_eq {r L : Nat} (hr : r < 2 ^ L) : kernelZero r L = (r == 0) := by
  rw [Bool.eq_iff_iff, beq_iff_eq, kernelZero, List.all_eq_true]
  constructor
  · intro hbytes
    apply Nat.eq_of_testBit_eq
    intro k
    rw [Nat.zero_testBit]
    by_cases hk : k / 8 < byteCount L
    · have hbyte : byteAt r (k / 8) = 0 := by simpa using hbytes (k / 8) (List.mem_range.2 hk)
      rw [← bytesAreLittleEndian r k, hbyte, Nat.zero_testBit]
    · have hLk : L ≤ k := by unfold byteCount at hk; omega
      exact Nat.testBit_lt_two_pow (hr.trans_le (Nat.pow_le_pow_right (by decide) hLk))
  · rintro rfl k -
    simp [byteAt]

/-! ### Negation and the Magnitude conversions (40_datapath.md R131 to R137) -/

theorem trunc_of_lt {n v : Nat} (h : v < 2 ^ n) : trunc n v = v := Nat.mod_eq_of_lt h

theorem trunc_two_pow (n : Nat) : trunc n (2 ^ n) = 0 := Nat.mod_self _

section
variable {n x : Nat} (hn : 1 ≤ n) (hx : x < 2 ^ n)
include hn hx

/-- Negation in closed form: the branch with the top bit set decrements and complements, the other complements and increments. -/
theorem neg_eq_trunc : neg n x = trunc n (2 ^ n - x) := by
  have hhalf := Nat.two_pow_pos (n - 1)
  have hmask : mask n = 2 ^ n - 1 := rfl
  rw [neg, topBit_eq_decide hn hx]
  by_cases htop : 2 ^ (n - 1) ≤ x
  · have hdec : (kadd x (mask n) false n).1 = x - 1 := by
      have hsum : x + mask n + false.toNat = x - 1 + 2 ^ n := by simp only [hmask, Bool.toNat_false]; omega
      rw [kadd_fst hx (mask_lt n), hsum, trunc, Nat.add_mod_right, Nat.mod_eq_of_lt (by omega)]
    rw [if_pos (decide_eq_true htop), hdec, trunc_of_lt (by omega), notWithin, hmask]
    omega
  · have hcompl : notWithin n x + 0 + true.toNat = 2 ^ n - x := by
      simp only [notWithin, hmask, Bool.toNat_true]; omega
    have hlt : notWithin n x < 2 ^ n := by rw [notWithin, hmask]; omega
    rw [if_neg (by simpa using htop), kadd_fst hlt (Nat.two_pow_pos n), hcompl]

theorem neg_of_pos (hpos : 0 < x) : neg n x = 2 ^ n - x := by
  rw [neg_eq_trunc hn hx, trunc_of_lt (by omega)]

end

theorem neg_zero_pattern {n : Nat} (hn : 1 ≤ n) : neg n 0 = 0 := by
  rw [neg_eq_trunc hn (Nat.two_pow_pos n), Nat.sub_zero, trunc_two_pow]

/-- The most negative Signed pattern is its own negation. -/
theorem neg_half {n : Nat} (hn : 1 ≤ n) : neg n (2 ^ (n - 1)) = 2 ^ (n - 1) := by
  have hhalf := two_pow_eq_half_add_half hn
  have hpos := Nat.two_pow_pos (n - 1)
  rw [neg_of_pos hn (by omega) hpos]
  omega

section
variable {n x : Nat} (hn : 1 ≤ n) (hx : x < 2 ^ n)
include hn hx

/-- The conversion from two's complement turns the upper half round, its lowest pattern -0 excepted (40_datapath.md R135). -/
theorem fromTC_magnitude :
    fromTC x n .magnitude = if x ≤ 2 ^ (n - 1) then x else 3 * 2 ^ (n - 1) - x := by
  have hhalf := two_pow_eq_half_add_half hn
  have hpos := Nat.two_pow_pos (n - 1)
  rw [fromTC, topBit_eq_decide hn hx]
  rcases lt_trichotomy x (2 ^ (n - 1)) with hlt | rfl | hgt
  · rw [if_neg (by simpa using hlt), if_pos hlt.le]
  · rw [if_pos (decide_eq_true le_rfl), if_pos le_rfl, neg_half hn, and_mask, Nat.mod_self, Nat.zero_or]
  · have hneg : 2 ^ n - x < 2 ^ (n - 1) := by omega
    have hor : (2 ^ n - x) ||| 2 ^ (n - 1) = 2 ^ (n - 1) + (2 ^ n - x) := by
      simpa [Nat.or_comm] using (Nat.two_pow_add_eq_or_of_lt hneg 1).symm
    rw [if_pos (decide_eq_true hgt.le), if_neg (Nat.not_le.2 hgt), neg_of_pos hn hx (by omega), and_mask_of_lt hneg, hor]
    omega

/-- The conversion to two's complement turns the upper half round too, and makes -0 the pattern 0 (40_datapath.md R134). -/
theorem toTC_magnitude :
    toTC x n .magnitude = if x = 2 ^ (n - 1) then 0 else if x ≤ 2 ^ (n - 1) then x else 3 * 2 ^ (n - 1) - x := by
  have hhalf := two_pow_eq_half_add_half hn
  rw [toTC, topBit_eq_decide hn hx, and_mask]
  rcases lt_trichotomy x (2 ^ (n - 1)) with hlt | rfl | hgt
  · rw [if_neg (by simpa using hlt), if_neg hlt.ne, if_pos hlt.le]
  · rw [if_pos (decide_eq_true le_rfl), if_pos rfl, Nat.mod_self, neg_zero_pattern hn]
  · have hmod : x % 2 ^ (n - 1) = x - 2 ^ (n - 1) := by
      rw [Nat.mod_eq_sub_mod hgt.le, Nat.mod_eq_of_lt (by omega)]
    rw [if_pos (decide_eq_true hgt.le), if_neg hgt.ne', if_neg (Nat.not_le.2 hgt), hmod,
      neg_of_pos hn (by omega) (by omega)]
    omega

theorem toTC_magnitude_lt : toTC x n .magnitude < 2 ^ n := by
  have hhalf := two_pow_eq_half_add_half hn
  rw [toTC_magnitude hn hx]
  split_ifs <;> omega

theorem fromTC_magnitude_lt : fromTC x n .magnitude < 2 ^ n := by
  have hhalf := two_pow_eq_half_add_half hn
  rw [fromTC_magnitude hn hx]
  split_ifs <;> omega

/-- The value under Magnitude is the Signed value of the converted pattern. -/
theorem val_toTC_magnitude : val (toTC x n .magnitude) n .signed = val x n .magnitude := by
  have hhalf := two_pow_eq_half_add_half hn
  have hpos := Nat.two_pow_pos (n - 1)
  rw [val_signed hn (toTC_magnitude_lt hn hx), val_magnitude hn hx, toTC_magnitude hn hx]
  have hcast : ((2 ^ n : Nat) : Int) = 2 ^ n ∧ ((2 ^ (n - 1) : Nat) : Int) = 2 ^ (n - 1) := by norm_cast
  split_ifs <;> omega

/-- The Signed value is the value under Magnitude of the converted pattern, but for the most negative one. -/
theorem val_fromTC_magnitude (hne : x ≠ 2 ^ (n - 1)) : val (fromTC x n .magnitude) n .magnitude = val x n .signed := by
  have hhalf := two_pow_eq_half_add_half hn
  rw [val_magnitude hn (fromTC_magnitude_lt hn hx), val_signed hn hx, fromTC_magnitude hn hx]
  have hcast : ((2 ^ n : Nat) : Int) = 2 ^ n ∧ ((2 ^ (n - 1) : Nat) : Int) = 2 ^ (n - 1) := by norm_cast
  split_ifs <;> omega

theorem fromTC_toTC_magnitude :
    fromTC (toTC x n .magnitude) n .magnitude = if x = 2 ^ (n - 1) then 0 else x := by
  have hhalf := two_pow_eq_half_add_half hn
  rw [fromTC_magnitude hn (toTC_magnitude_lt hn hx), toTC_magnitude hn hx]
  split_ifs <;> omega

theorem toTC_fromTC_magnitude :
    toTC (fromTC x n .magnitude) n .magnitude = if x = 2 ^ (n - 1) then 0 else x := by
  have hhalf := two_pow_eq_half_add_half hn
  rw [toTC_magnitude hn (fromTC_magnitude_lt hn hx), fromTC_magnitude hn hx]
  split_ifs <;> omega

end

/-- Where the top bit is clear, both conversions give the pattern itself. -/
theorem conversions_of_topBit_false {n x : Nat} (h : x.testBit (n - 1) = false) :
    toTC x n .magnitude = x ∧ fromTC x n .magnitude = x := by
  have htop : topBit x n = false := h
  simp [toTC, fromTC, htop]

/-! ### The envelope on Magnitude values (40_datapath.md R138) -/

/-- A pattern's Signed value differs from the pattern by a multiple of `2^n`. -/
theorem modEq_val_signed (v n : Nat) : (v : Int) ≡ val v n .signed [ZMOD 2 ^ n] :=
  Int.modEq_iff_dvd.2 ⟨-(if topBit v n then 1 else 0), by rw [val]; ring⟩

/-- A converted Magnitude pattern stands for its value modulo `2^n`. -/
theorem modEq_toTC_magnitude {x n : Nat} (hn : 1 ≤ n) (hx : x < 2 ^ n) :
    (toTC x n .magnitude : Int) ≡ val x n .magnitude [ZMOD 2 ^ n] := by
  rw [← val_toTC_magnitude hn hx]
  exact modEq_val_signed _ n

theorem modEq_mask (n : Nat) : (mask n : Int) ≡ -1 [ZMOD 2 ^ n] :=
  Int.modEq_iff_dvd.2 ⟨-1, by rw [mask, Nat.cast_sub Nat.one_le_two_pow]; push_cast; ring⟩

theorem notWithin_lt (n v : Nat) : notWithin n v < 2 ^ n := (Nat.sub_le _ _).trans_lt (mask_lt n)

/-- A complement stands for one less than the negated value. -/
theorem modEq_notWithin {n v : Nat} (hv : v < 2 ^ n) : (notWithin n v : Int) ≡ -1 - v [ZMOD 2 ^ n] := by
  have hle : v ≤ mask n := Nat.le_sub_one_of_lt hv
  rw [notWithin, Nat.cast_sub hle]
  exact (modEq_mask n).sub_right _

/-- The kernel adder adds what its operands stand for modulo `2^L`. -/
theorem modEq_kadd {L a b : Nat} (ha : a < 2 ^ L) (hb : b < 2 ^ L) {za zb : Int} (hza : (a : Int) ≡ za [ZMOD 2 ^ L])
    (hzb : (b : Int) ≡ zb [ZMOD 2 ^ L]) (cin : Bool) :
    ((kadd a b cin L).1 : Int) ≡ za + zb + (cin.toNat : Int) [ZMOD 2 ^ L] := by
  have hsum : ((kadd a b cin L).1 : Int) ≡ a + b + (cin.toNat : Int) [ZMOD 2 ^ L] := by
    rw [kadd_fst ha hb, trunc]
    push_cast
    exact Int.mod_modEq _ _
  exact hsum.trans ((hza.add hzb).add_right _)

/-- A two's-complement pattern that stands for a value in the Magnitude range converts to a pattern of that value. -/
theorem val_fromTC_of_modEq {L t : Nat} (hL : 1 ≤ L) (ht : t < 2 ^ L) {z : Int} (hz : inRange z L .magnitude)
    (htz : (t : Int) ≡ z [ZMOD 2 ^ L]) : val (fromTC t L .magnitude) L .magnitude = z := by
  obtain ⟨hlow, hhigh⟩ := hz
  have hres : truncInt L z = t := by
    rw [truncInt, ← htz.eq, Int.emod_eq_of_lt (Int.natCast_nonneg t) (mod_cast ht), Int.toNat_natCast]
  have hval : val t L .signed = z := by
    rw [← hres]
    exact val_truncInt_signed hL ⟨by omega, hhigh⟩
  have hne : t ≠ 2 ^ (L - 1) := by
    have hhalf := two_pow_eq_half_add_half hL
    rintro rfl
    rw [val_signed hL ht, if_pos le_rfl] at hval
    zify at hhalf
    push_cast at hval
    omega
  rw [val_fromTC_magnitude hL ht hne, hval]

section
variable {L a b : Nat} (hL : 1 ≤ L) (ha : a < 2 ^ L) (hb : b < 2 ^ L)
include hL ha

include hb in
theorem val_addWithCarry_magnitude (cin : Bool)
    (hz : inRange (val a L .magnitude + val b L .magnitude + (cin.toNat : Int)) L .magnitude) :
    val (addWithCarry cin .magnitude L a b).1 L .magnitude =
      val a L .magnitude + val b L .magnitude + (cin.toNat : Int) :=
  val_fromTC_of_modEq hL (kadd_fst_lt _ _ _ L) hz
    (modEq_kadd (toTC_magnitude_lt hL ha) (toTC_magnitude_lt hL hb) (modEq_toTC_magnitude hL ha)
      (modEq_toTC_magnitude hL hb) cin)

include hb in
theorem val_subtract_magnitude (hz : inRange (val a L .magnitude - val b L .magnitude) L .magnitude) :
    val (subtract .magnitude L a b).1 L .magnitude = val a L .magnitude - val b L .magnitude := by
  have hnot := (modEq_notWithin (toTC_magnitude_lt hL hb)).trans ((modEq_toTC_magnitude hL hb).sub_left (-1))
  have hsum := modEq_kadd (toTC_magnitude_lt hL ha) (notWithin_lt L _) (modEq_toTC_magnitude hL ha) hnot true
  have hdiff : val a L .magnitude + (-1 - val b L .magnitude) + (true.toNat : Int) =
      val a L .magnitude - val b L .magnitude := by simp only [Bool.toNat_true]; ring
  rw [hdiff] at hsum
  exact val_fromTC_of_modEq hL (kadd_fst_lt _ _ _ L) hz hsum

theorem val_increment_magnitude (hz : inRange (val a L .magnitude + 1) L .magnitude) :
    val (increment .magnitude L a).1 L .magnitude = val a L .magnitude + 1 := by
  have hsum := modEq_kadd (toTC_magnitude_lt hL ha) (Nat.two_pow_pos L) (modEq_toTC_magnitude hL ha) Int.ModEq.rfl true
  rw [Nat.cast_zero, add_zero] at hsum
  exact val_fromTC_of_modEq hL (kadd_fst_lt _ _ _ L) hz hsum

theorem val_decrement_magnitude (hz : inRange (val a L .magnitude - 1) L .magnitude) :
    val (decrement .magnitude L a).1 L .magnitude = val a L .magnitude - 1 := by
  have hsum := modEq_kadd (toTC_magnitude_lt hL ha) (mask_lt L) (modEq_toTC_magnitude hL ha) (modEq_mask L) false
  rw [Bool.toNat_false, Nat.cast_zero, add_zero] at hsum
  exact val_fromTC_of_modEq hL (kadd_fst_lt _ _ _ L) hz hsum

end

/-! ### The obligations -/

/-- Settles O13: the mask keeps an operand's own bits, so a request that differs above them is read alike. -/
theorem strayBitsIgnored : Obligations.StrayBitsIgnored := by
  refine ⟨fun x k => ⟨testBit_and_mask x.a _ k, testBit_and_mask x.b _ k⟩, ?_⟩
  intro i s t a b hexec ha hb
  exact exec_eq_of_responseOf_eq hexec ((readAlike_of_testBit_eq s.cfg ha hb).responseOf_eq i)

/-- Settles O14: a width port at 0 is read as one at 1, and `NMAX >= 1` lets both pass the width check. -/
theorem zeroWidthReadsAsOne : Obligations.ZeroWidthReadsAsOne := by
  refine ⟨fun w => rfl, fun i s t hc hwa hexec => ?_, fun i s t hc hwb hexec => ?_⟩
  · exact exec_eq_of_responseOf_eq hexec ((readAlike_wa_one hc hwa).responseOf_eq i)
  · exact exec_eq_of_responseOf_eq hexec ((readAlike_wb_one hc hwb).responseOf_eq i)

/-- Settles O36: the success is a result response, whose flags are those of its cut pattern. -/
theorem flagsReadTheResult : Obligations.FlagsReadTheResult := by
  intro i s t hcmp hexec herr
  cases eq_answer_of_exec hexec
  obtain ⟨sb, y, -, -, hresp⟩ := responseOf_of_success hcmp herr
  rw [State.answer_out, hresp]
  exact ⟨rfl, rfl, rfl⟩

/-- Settles O38: a success has passed the checks on the sign fields, so they name the one behaviour that `SBR` shows. -/
theorem resultWidthAndSign : Obligations.ResultWidthAndSign := by
  intro i s t hexec herr
  cases eq_answer_of_exec hexec
  constructor
  · intro hcmp
    obtain ⟨sb, y, hsba, hsbb, hresp⟩ := responseOf_of_success hcmp herr
    rw [State.answer_out, hresp, hsba]
    refine ⟨rfl, fun sbb h => ?_, rfl⟩
    rw [hsbb sbb h]
    rfl
  · intro hcmp
    obtain ⟨va, vb, hresp⟩ := responseOf_of_success_cmp hcmp herr
    rw [State.answer_out, hresp]
    exact ⟨rfl, rfl⟩

/-- Settles O40: the byte loop's sum and its carry are the exact sum, which the mask cuts to `L` bits. -/
theorem kernelAdderClosedForm : Obligations.KernelAdderClosedForm := fun _ _ _ cin ha hb => kadd_eq ha hb cin

/-- Settles O41: the exact sum needs at most `L + 1` bits, and the byte loop's sum fits the bytes. -/
theorem kernelOverflowCauses : Obligations.KernelOverflowCauses := by
  intro L a b cin ha hb
  exact ⟨by rw [kadd, Bool.or_eq_true], kaddCarry_eq_false ha hb cin, kaddClipped_eq_false a b cin⟩

/-- Settles O42: the adder's result is below `2^L`, so its bytes hold all of it. -/
theorem kernelFlagsAgree : Obligations.KernelFlagsAgree := by
  intro L a b cin o _ _
  exact ⟨kernelZero_eq (kadd_fst_lt a b cin L), rfl⟩

/-- Settles O43: each branch adds up to `2^n - x` modulo `2^n`. -/
theorem negationClosedForm : Obligations.NegationClosedForm := by
  intro n x hn hx
  refine ⟨fun htop => if_pos htop, fun htop => if_neg ?_, neg_eq_trunc hn hx, neg_zero_pattern hn, neg_half hn⟩
  rw [topBit, htop]
  exact Bool.false_ne_true

/-- Settles O45: from the closed forms of the conversions and of the values. -/
theorem conversionsKeepValues : Obligations.ConversionsKeepValues := by
  intro n x hn hx
  have hhalf : 2 ^ (n - 1) < 2 ^ n := Nat.pow_lt_pow_right (by decide) (Nat.sub_one_lt_of_lt hn)
  refine ⟨rfl, val_toTC_magnitude hn hx, ?_, rfl, val_fromTC_magnitude hn hx, ?_, ?_⟩
  · rw [toTC_magnitude hn hhalf, if_pos rfl]
  · rw [fromTC_magnitude hn hhalf, if_pos le_rfl]
  · exact (val_magnitude_eq_zero_iff hn hhalf).2 (.inr rfl)

/-- Settles O46: under Unsigned and Signed the conversions are the identity, under Magnitude they turn the upper half round twice. -/
theorem conversionRoundTrips : Obligations.ConversionRoundTrips := by
  intro n x sb hn hx
  cases sb with
  | unsigned | signed => exact ⟨rfl, rfl, conversions_of_topBit_false⟩
  | magnitude =>
    simp only [true_and]
    exact ⟨fromTC_toTC_magnitude hn hx, toTC_fromTC_magnitude hn hx, conversions_of_topBit_false⟩

/-- Settles O52: the kernel's result stands for the exact value modulo `2^L`, and converts back to it where it is in range. -/
theorem magnitudeArithmeticByValue : Obligations.MagnitudeArithmeticByValue := by
  intro L a b cin hL ha hb
  exact ⟨val_addWithCarry_magnitude hL ha hb cin, val_subtract_magnitude hL ha hb, val_increment_magnitude hL ha,
    val_decrement_magnitude hL ha⟩

end Sys2Proof.Machine
end

section
/-! The adder statements (41_adder.md): ADD and ADC in closed form, wide sums by carry chaining, and Signed overflow read off the sign
bits. -/

namespace Sys2Proof.Machine

/-! ### The envelope and the adder in closed form (40_datapath.md R138, R142) -/

theorem toTC_lt {n x : Nat} (hn : 1 ≤ n) (hx : x < 2 ^ n) (sb : SignBehavior) : toTC x n sb < 2 ^ n := by
  cases sb with
  | unsigned | signed => exact hx
  | magnitude => exact toTC_magnitude_lt hn hx

theorem fromTC_lt {n x : Nat} (hn : 1 ≤ n) (hx : x < 2 ^ n) (sb : SignBehavior) : fromTC x n sb < 2 ^ n := by
  cases sb with
  | unsigned | signed => exact hx
  | magnitude => exact fromTC_magnitude_lt hn hx

theorem trunc_lt (n v : Nat) : trunc n v < 2 ^ n := Nat.mod_lt v (Nat.two_pow_pos n)

theorem toTC_of_ne_magnitude {sb : SignBehavior} (hsb : sb ≠ .magnitude) (x n : Nat) : toTC x n sb = x := by
  cases sb with
  | unsigned | signed => rfl
  | magnitude => exact absurd rfl hsb

theorem fromTC_of_ne_magnitude {sb : SignBehavior} (hsb : sb ≠ .magnitude) (x n : Nat) : fromTC x n sb = x := by
  cases sb with
  | unsigned | signed => rfl
  | magnitude => exact absurd rfl hsb

/-- The kernel's closed form applies, since converted operands stay within the width. -/
theorem addWithCarry_eq {L a b : Nat} (hL : 1 ≤ L) (ha : a < 2 ^ L) (hb : b < 2 ^ L) (cin : Bool) (sb : SignBehavior) :
    addWithCarry cin sb L a b = (fromTC (trunc L (toTC a L sb + toTC b L sb + cin.toNat)) L sb,
      decide (2 ^ L ≤ toTC a L sb + toTC b L sb + cin.toNat)) := by
  rw [addWithCarry, envelope2, kadd_eq (toTC_lt hL ha sb) (toTC_lt hL hb sb)]

/-- Everything an ADD or an ADC that passes its checks puts on the ports. -/
theorem matchedResponse_addWithCarry_ports {c : Config} {x : Inputs} (hw : x.widthsFit c) (cin : Bool) (sb : SignBehavior) :
    (matchedResponse c x (fieldOfSign sb) (fieldOfSign sb) (addWithCarry cin)).ports =
      successOutputs sb (binaryWidth x)
        (fromTC (trunc (binaryWidth x)
          (toTC (operandA x) (binaryWidth x) sb + toTC (operandB x) (binaryWidth x) sb + cin.toNat)) (binaryWidth x) sb)
        (decide (2 ^ binaryWidth x ≤
          toTC (operandA x) (binaryWidth x) sb + toTC (operandB x) (binaryWidth x) sb + cin.toNat)) := by
  have hL := binaryWidth_pos x
  rw [matchedResponse_ok c x sb hw, addWithCarry_eq hL (operandA_lt_binary x) (operandB_lt_binary x),
    resultResponse_ports_of_lt (fromTC_lt hL (trunc_lt _ _) sb)]

/-! ### One chunk of a wide sum (41_adder.md R163) -/

theorem decode_chunkRequest_add (sb : SignBehavior) (m x y : Nat) (cin : Bool) :
    decode (chunkRequest .add sb m x y cin).cw = .ok (.add (fieldOfSign sb) (fieldOfSign sb)) :=
  decode_encode (.add (fieldOfSign sb) (fieldOfSign sb))

theorem decode_chunkRequest_adc (sb : SignBehavior) (m x y : Nat) (cin : Bool) :
    decode (chunkRequest .adc sb m x y cin).cw = .ok (.adc (fieldOfSign sb) (fieldOfSign sb)) :=
  decode_encode (.adc (fieldOfSign sb) (fieldOfSign sb))

/-- The low chunk's ADD answers as ADC with no carry in. -/
theorem respond_chunkRequest_add (c : Config) (sb : SignBehavior) (m x y : Nat) :
    respond c (chunkRequest .add sb m x y false) = respond c (chunkRequest .adc sb m x y false) := by
  rw [respond_of_decode (decode_chunkRequest_add sb m x y false), respond_of_decode (decode_chunkRequest_adc sb m x y false)]
  rfl

/-- So a chained sum is a chain of ADC from the carry 0. -/
theorem chainAdd_cons (c : Config) (sb : SignBehavior) (m : Nat) (p : Nat × Nat) (rest : List (Nat × Nat)) :
    chainAdd c sb m (p :: rest) = chainHigher c sb m false (p :: rest) := by
  rw [chainAdd, chainHigher, respond_chunkRequest_add]

section
variable {c : Config} {sb : SignBehavior} {m : Nat} (hsb : sb ≠ .magnitude) (hm : 1 ≤ m) (hfit : m ≤ c.nmax)
include hsb hm hfit

/-- ADC on two chunks of Unsigned or Signed numbers adds the patterns as they stand. -/
theorem respond_chunkRequest_adc {x y : Nat} (hx : x < 2 ^ m) (hy : y < 2 ^ m) (carry : Bool) :
    respond c (chunkRequest .adc sb m x y carry) =
      some (successOutputs sb m (trunc m (x + y + carry.toNat)) (decide (2 ^ m ≤ x + y + carry.toNat))) := by
  have hnorm : normWidth m = m := normWidth_of_pos hm
  have hwidth : binaryWidth (chunkRequest .adc sb m x y carry) = m := by simp [binaryWidth, chunkRequest, hnorm]
  have hA : operandA (chunkRequest .adc sb m x y carry) = x := by simp [operandA, chunkRequest, hnorm, and_mask_of_lt hx]
  have hB : operandB (chunkRequest .adc sb m x y carry) = y := by simp [operandB, chunkRequest, hnorm, and_mask_of_lt hy]
  rw [respond_of_decode (decode_chunkRequest_adc sb m x y carry), responseOf,
    matchedResponse_addWithCarry_ports ⟨hfit, hfit⟩, hwidth, hA, hB, toTC_of_ne_magnitude hsb, toTC_of_ne_magnitude hsb,
    fromTC_of_ne_magnitude hsb]
  rfl

/-- The chain's first ADC leaves its chunk of the sum and hands its carry on. -/
theorem chainHigher_cons {x y : Nat} (hx : x < 2 ^ m) (hy : y < 2 ^ m) (carry : Bool) (rest : List (Nat × Nat)) :
    chainHigher c sb m carry ((x, y) :: rest) =
      (chainHigher c sb m (decide (2 ^ m ≤ x + y + carry.toNat)) rest).map
        fun q => (trunc m (x + y + carry.toNat) :: q.1, q.2) := by
  rw [chainHigher, respond_chunkRequest_adc hsb hm hfit hx hy]
  cases h : chainHigher c sb m (decide (2 ^ m ≤ x + y + carry.toNat)) rest <;> simp [successOutputs, h]

end

/-! ### Chunks (41_adder.md R163) -/

theorem chunksOf_zero (m v : Nat) : chunksOf m 0 v = [] := rfl

theorem chunksOf_succ (m k v : Nat) : chunksOf m (k + 1) v = trunc m v :: chunksOf m k (v / 2 ^ m) := by
  simp [chunksOf, List.range_succ_eq_map, trunc, Nat.div_div_eq_div_mul, ← Nat.pow_add, Nat.mul_add, Nat.add_comm]

theorem length_chunksOf (m k v : Nat) : (chunksOf m k v).length = k := by simp [chunksOf]

theorem two_pow_mul_succ (m k : Nat) : 2 ^ (m * (k + 1)) = 2 ^ m * 2 ^ (m * k) := by
  rw [Nat.mul_succ, Nat.pow_add, Nat.mul_comm]

theorem joinChunks_chunksOf (m k v : Nat) : joinChunks m (chunksOf m k v) = trunc (m * k) v := by
  induction k generalizing v with
  | zero => simp [chunksOf_zero, joinChunks, trunc, Nat.mod_one]
  | succ k ih => rw [chunksOf_succ, joinChunks, ih, trunc, trunc, trunc, two_pow_mul_succ, Nat.mod_mul]

theorem chainAdd_chunksOf (c : Config) (sb : SignBehavior) (m k x y : Nat) :
    chainAdd c sb m ((chunksOf m (k + 1) x).zip (chunksOf m (k + 1) y)) =
      chainHigher c sb m false ((chunksOf m (k + 1) x).zip (chunksOf m (k + 1) y)) := by
  rw [chunksOf_succ, chunksOf_succ]
  exact chainAdd_cons c sb m _ _

/-- The carry out of two `m`-bit chunks and a carry in is what their sum holds above `m` bits. -/
theorem toNat_carry_eq_div {m x y : Nat} (hx : x < 2 ^ m) (hy : y < 2 ^ m) (carry : Bool) :
    (decide (2 ^ m ≤ x + y + carry.toNat)).toNat = (x + y + carry.toNat) / 2 ^ m := by
  have hcarry := Bool.toNat_le carry
  by_cases h : 2 ^ m ≤ x + y + carry.toNat
  · rw [decide_eq_true h, Bool.toNat_true]
    exact (Nat.div_eq_of_lt_le (by omega) (by omega)).symm
  · rw [decide_eq_false h, Bool.toNat_false, Nat.div_eq_of_lt (Nat.lt_of_not_le h)]

/-- The sum above the low chunk: the operands above theirs, and the carry out of the low chunk. -/
theorem add_div_two_pow (m x y : Nat) (carry : Bool) :
    (x + y + carry.toNat) / 2 ^ m =
      x / 2 ^ m + y / 2 ^ m + (decide (2 ^ m ≤ trunc m x + trunc m y + carry.toNat)).toNat := by
  have hsplit : x + y + carry.toNat = trunc m x + trunc m y + carry.toNat + 2 ^ m * (x / 2 ^ m + y / 2 ^ m) := by
    have hx := Nat.mod_add_div x (2 ^ m)
    have hy := Nat.mod_add_div y (2 ^ m)
    simp only [trunc, Nat.mul_add]
    omega
  rw [toNat_carry_eq_div (trunc_lt m x) (trunc_lt m y), hsplit, Nat.add_mul_div_left _ _ (Nat.two_pow_pos m), Nat.add_comm]

theorem trunc_add_trunc (m x y d : Nat) : trunc m (trunc m x + trunc m y + d) = trunc m (x + y + d) := by
  simp [trunc, Nat.add_mod]

/-- A chain of ADC on the chunks of two Unsigned or Signed numbers gives the chunks of their sum, the first carry in included, and its
carry out (41_adder.md R163). -/
theorem chainHigher_chunksOf {c : Config} {sb : SignBehavior} {m : Nat} (hsb : sb ≠ .magnitude) (hm : 1 ≤ m)
    (hfit : m ≤ c.nmax) {k x y : Nat} (hx : x < 2 ^ (m * k)) (hy : y < 2 ^ (m * k)) (carry : Bool) :
    chainHigher c sb m carry ((chunksOf m k x).zip (chunksOf m k y)) =
      some (chunksOf m k (x + y + carry.toNat), decide (2 ^ (m * k) ≤ x + y + carry.toNat)) := by
  induction k generalizing x y carry with
  | zero =>
    obtain rfl : x = 0 := Nat.lt_one_iff.1 (by simpa using hx)
    obtain rfl : y = 0 := Nat.lt_one_iff.1 (by simpa using hy)
    cases carry <;> rfl
  | succ k ih =>
    rw [two_pow_mul_succ] at hx hy ⊢
    rw [chunksOf_succ, chunksOf_succ, List.zip_cons_cons, chainHigher_cons hsb hm hfit (trunc_lt m x) (trunc_lt m y),
      ih (Nat.div_lt_of_lt_mul hx) (Nat.div_lt_of_lt_mul hy), ← add_div_two_pow, trunc_add_trunc, chunksOf_succ]
    simp only [Option.map_some, Nat.le_div_iff_mul_le (Nat.two_pow_pos m), Nat.mul_comm (2 ^ m)]

/-! ### Overflow and sign bits (41_adder.md R164) -/

/-- A two-operand request with a success passed the width checks. -/
theorem widthsFit_of_matchedResponse_success {c : Config} {x : Inputs} {sba sbb : SignField}
    {operation : SignBehavior → Nat → Nat → Nat → Nat × Bool}
    (h : (matchedResponse c x sba sbb operation).ports.err = 0#3) : x.widthsFit c := by
  unfold matchedResponse at h
  cases hcheck : checkMatched c x sba sbb with
  | error e => rw [hcheck] at h; exact absurd h (ports_err_err_ne_zero e)
  | ok sb =>
    obtain ⟨-, -, hw⟩ := (checkMatched_eq_ok_iff c x sba sbb sb).1 hcheck
    exact hw

/-- Two patterns of one sign whose cut sum has the other sign are exactly those whose Signed values add up out of range. -/
theorem signBits_differ_iff_not_inRange {L a b : Nat} (hL : 1 ≤ L) (ha : a < 2 ^ L) (hb : b < 2 ^ L) :
    (topBit a L = topBit b L ∧ topBit (trunc L (a + b)) L ≠ topBit a L) ↔
      ¬ inRange (val a L .signed + val b L .signed) L .signed := by
  have hhalf := two_pow_eq_half_add_half hL
  have hcast : ((2 ^ L : Nat) : Int) = 2 ^ L ∧ ((2 ^ (L - 1) : Nat) : Int) = 2 ^ (L - 1) := by norm_cast
  have hsum : trunc L (a + b) = if 2 ^ L ≤ a + b then a + b - 2 ^ L else a + b := by
    split_ifs with h
    · rw [trunc, Nat.mod_eq_sub_mod h, Nat.mod_eq_of_lt (by omega)]
    · exact trunc_of_lt (Nat.lt_of_not_le h)
  rw [topBit_eq_decide hL ha, topBit_eq_decide hL hb, topBit_eq_decide hL (trunc_lt L _), hsum, val_signed hL ha,
    val_signed hL hb]
  simp only [inRange, ne_eq, decide_eq_decide]
  split_ifs <;> omega

/-! ### The obligations -/

/-- Settles O25: ADD is the adder with no carry in. -/
theorem addResult : Obligations.AddResult := by
  intro s sb hw
  rw [exec_eq_answer, State.answer, responseOf, matchedResponse_addWithCarry_ports hw]
  rfl

/-- Settles O26: ADC is the adder with `CIN` carried in. -/
theorem adcResult : Obligations.AdcResult := by
  intro s sb hw
  rw [exec_eq_answer, State.answer, responseOf, matchedResponse_addWithCarry_ports hw]
  rfl

/-- Settles O50: the chain gives the chunks of the sum. Under Magnitude a chunk's top bit is read as a sign: 15 + 1 in two chunks of 4
bits adds -7 and 1 in the low chunk, and the chunks join to 14. -/
theorem chainedAddition : Obligations.ChainedAddition := by
  constructor
  · intro c sb m k x y hsb hm hfit hk hx hy
    obtain ⟨k, rfl⟩ := Nat.exists_eq_add_of_le' hk
    exact ⟨_, _, (chainAdd_chunksOf c sb m k x y).trans (chainHigher_chunksOf hsb hm hfit hx hy false),
      length_chunksOf m _ _, joinChunks_chunksOf m _ _, rfl⟩
  · exact ⟨{ nmax := 4 }, 4, 2, 0x0F, 0x01, [0xE, 0x0], false, by decide⟩

/-- Settles O51: at equal widths the operands' sign bits stand at the result's, and ADD's result is the cut sum of the patterns. -/
theorem signedOverflowFromSignBits : Obligations.SignedOverflowFromSignBits := by
  intro s t hwidths hexec herr
  have hw : s.inp.widthsFit s.cfg := by
    cases eq_answer_of_exec hexec
    exact widthsFit_of_matchedResponse_success herr
  have hadd := addResult s .signed hw
  rw [← hwidths, max_self] at hadd
  cases hexec.symm.trans hadd
  exact signBits_differ_iff_not_inRange (normWidth_pos _) (operandA_lt s.inp) (hwidths ▸ operandB_lt s.inp)

end Sys2Proof.Machine
end

section
/-! The subtractor statements (42_subtractor.md): SUB in closed form, and ADD of SUB's response and operand B. -/

namespace Sys2Proof.Machine

/-! ### The residue of a difference (00_scope.md R12) -/

/-- A pattern is the residue of every integer that it stands for modulo `2^n`. -/
theorem truncInt_eq_of_modEq {n t : Nat} (ht : t < 2 ^ n) {z : Int} (h : (t : Int) ≡ z [ZMOD 2 ^ n]) :
    truncInt n z = t := by
  rw [truncInt, ← h.eq, Int.emod_eq_of_lt (Int.natCast_nonneg t) (mod_cast ht), Int.toNat_natCast]

theorem modEq_truncInt (n : Nat) (z : Int) : (truncInt n z : Int) ≡ z [ZMOD 2 ^ n] := by
  rw [truncInt, Int.toNat_of_nonneg (Int.emod_nonneg z (by positivity))]
  exact Int.mod_modEq z _

/-- Adding the subtrahend back gives the minuend. -/
theorem trunc_truncInt_sub_add {n x : Nat} (hx : x < 2 ^ n) (y : Nat) :
    trunc n (truncInt n ((x : Int) - y) + y) = x := by
  have hback : ((truncInt n ((x : Int) - y) : Int) + y) % 2 ^ n = x := by
    rw [((modEq_truncInt n _).add_right _).eq, sub_add_cancel, Int.emod_eq_of_lt (Int.natCast_nonneg x) (mod_cast hx)]
  rw [trunc]
  exact_mod_cast hback

/-- Under Signed a difference of values that is in range is the value of the patterns' difference (42_subtractor.md R181). -/
theorem val_truncInt_sub {L : Nat} (hL : 1 ≤ L) (a b : Nat) (hz : inRange (val a L .signed - val b L .signed) L .signed) :
    val (truncInt L ((a : Int) - b)) L .signed = val a L .signed - val b L .signed := by
  have hres : truncInt L ((a : Int) - b) = truncInt L (val a L .signed - val b L .signed) :=
    congrArg Int.toNat ((modEq_val_signed a L).sub (modEq_val_signed b L)).eq
  rw [hres, val_truncInt_signed hL hz]

/-! ### The subtractor in closed form (42_subtractor.md R181) -/

/-- The kernel adder on a complement and a carry in: the difference, and the carry out where there is no borrow. -/
theorem kadd_notWithin {L a b : Nat} (ha : a < 2 ^ L) (hb : b < 2 ^ L) :
    kadd a (notWithin L b) true L = (truncInt L ((a : Int) - b), decide (b ≤ a)) := by
  apply Prod.ext
  · have hsum := modEq_kadd ha (notWithin_lt L b) Int.ModEq.rfl (modEq_notWithin hb) true
    have hdiff : (a : Int) + (-1 - b) + (true.toNat : Int) = a - b := by simp only [Bool.toNat_true]; ring
    rw [hdiff] at hsum
    exact (truncInt_eq_of_modEq (kadd_fst_lt a _ true L) hsum).symm
  · rw [kadd_snd ha (notWithin_lt L b), decide_eq_decide, notWithin, mask, Bool.toNat_true]
    omega

theorem subtract_eq {L a b : Nat} (hL : 1 ≤ L) (ha : a < 2 ^ L) (hb : b < 2 ^ L) (sb : SignBehavior) :
    subtract sb L a b =
      (fromTC (truncInt L ((toTC a L sb : Int) - toTC b L sb)) L sb, decide (toTC b L sb ≤ toTC a L sb)) := by
  rw [subtract, envelope2, kadd_notWithin (toTC_lt hL ha sb) (toTC_lt hL hb sb)]

/-- Everything a SUB that passes its checks puts on the ports. -/
theorem matchedResponse_subtract_ports {c : Config} {x : Inputs} (hw : x.widthsFit c) (sb : SignBehavior) :
    (matchedResponse c x (fieldOfSign sb) (fieldOfSign sb) subtract).ports =
      successOutputs sb (binaryWidth x)
        (fromTC (truncInt (binaryWidth x) ((toTC (operandA x) (binaryWidth x) sb : Int) - toTC (operandB x) (binaryWidth x) sb))
          (binaryWidth x) sb)
        (decide (toTC (operandB x) (binaryWidth x) sb ≤ toTC (operandA x) (binaryWidth x) sb)) := by
  have hL := binaryWidth_pos x
  rw [matchedResponse_ok c x sb hw, subtract_eq hL (operandA_lt_binary x) (operandB_lt_binary x),
    resultResponse_ports_of_lt (fromTC_lt hL (truncInt_lt _ _) sb)]

/-! ### Adding the subtrahend back (42_subtractor.md R182) -/

/-- The conversions undo each other on a two's-complement pattern, but for the one that Magnitude makes -0. -/
theorem toTC_fromTC {n t : Nat} (hn : 1 ≤ n) (ht : t < 2 ^ n) {sb : SignBehavior} (hne : sb = .magnitude → t ≠ 2 ^ (n - 1)) :
    toTC (fromTC t n sb) n sb = t := by
  cases sb with
  | unsigned | signed => rfl
  | magnitude => rw [toTC_fromTC_magnitude hn ht, if_neg (hne rfl)]

/-- A Magnitude pattern that was converted there and back has its value still. -/
theorem val_fromTC_toTC_magnitude {n x : Nat} (hn : 1 ≤ n) (hx : x < 2 ^ n) :
    val (fromTC (toTC x n .magnitude) n .magnitude) n .magnitude = val x n .magnitude := by
  rw [fromTC_toTC_magnitude hn hx]
  split_ifs with hzero
  · rw [(val_magnitude_eq_zero_iff hn hx).2 (.inr hzero),
      (val_magnitude_eq_zero_iff hn (Nat.two_pow_pos n)).2 (.inl rfl)]
  · rfl

/-- The request with a pattern at its working width in operand A's place: how an earlier response is fed back. -/
def Inputs.feedBack (x : Inputs) (cw : ControlWord) (r : Nat) : Inputs := { x with cw := cw, a := r, wa := binaryWidth x }

section
variable (x : Inputs) (cw : ControlWord) (r : Nat)

theorem Inputs.normWidth_wa_feedBack : normWidth (x.feedBack cw r).wa = binaryWidth x := normWidth_of_pos (binaryWidth_pos x)

@[simp] theorem Inputs.binaryWidth_feedBack : binaryWidth (x.feedBack cw r) = binaryWidth x := by
  rw [binaryWidth, x.normWidth_wa_feedBack cw r]
  exact max_eq_left (le_max_right _ _)

@[simp] theorem Inputs.operandB_feedBack : operandB (x.feedBack cw r) = operandB x := rfl

end

theorem Inputs.operandA_feedBack {x : Inputs} {r : Nat} (hr : r < 2 ^ binaryWidth x) (cw : ControlWord) :
    operandA (x.feedBack cw r) = r := by
  rw [operandA, x.normWidth_wa_feedBack cw r]
  exact and_mask_of_lt hr

theorem Inputs.widthsFit_feedBack {c : Config} {x : Inputs} (hc : c.wf) (hw : x.widthsFit c) (cw : ControlWord) (r : Nat) :
    (x.feedBack cw r).widthsFit c :=
  ⟨binaryWidth_le hc hw, hw.2⟩

/-- ADD of a pattern fed back and operand B, at the working width of the request before. -/
theorem exec_add_feedBack {t : State} {x : Inputs} (hc : t.cfg.wf) (hw : x.widthsFit t.cfg) (cw : ControlWord)
    (sb : SignBehavior) {r : Nat} (hr : r < 2 ^ binaryWidth x) :
    ∃ u : State, exec (.add (fieldOfSign sb) (fieldOfSign sb)) (t.drive (x.feedBack cw r)) = .next u ∧
      u.out.err = 0#3 ∧ u.out.wr = binaryWidth x ∧
      u.out.r = fromTC (trunc (binaryWidth x) (toTC r (binaryWidth x) sb + toTC (operandB x) (binaryWidth x) sb))
        (binaryWidth x) sb := by
  refine ⟨_, exec_eq_answer _ _, ?_⟩
  rw [State.answer_out, responseOf, State.drive_cfg, State.drive_inp,
    matchedResponse_addWithCarry_ports (Inputs.widthsFit_feedBack hc hw cw r), Inputs.binaryWidth_feedBack,
    Inputs.operandA_feedBack hr, Inputs.operandB_feedBack]
  exact ⟨rfl, rfl, rfl⟩

/-! ### The obligations -/

/-- Settles O27: SUB is the closed form of the kernel on the complement, and under Unsigned and Signed nothing is converted. -/
theorem subResult : Obligations.SubResult := by
  intro s sb hw L a b ta tb
  have hsub : exec (.sub (fieldOfSign sb) (fieldOfSign sb)) s =
      .next { s with out := successOutputs sb L (fromTC (truncInt L ((ta : Int) - tb)) L sb) (decide (tb ≤ ta)) } := by
    rw [exec_eq_answer, State.answer, responseOf, matchedResponse_subtract_ports hw]
    rfl
  refine ⟨hsub, fun hsb => ?_, val_truncInt_sub (binaryWidth_pos s.inp) a b⟩
  have hta : ta = a := toTC_of_ne_magnitude hsb a L
  have htb : tb = b := toTC_of_ne_magnitude hsb b L
  rw [hsub, hta, htb, fromTC_of_ne_magnitude hsb]

/-- Settles O48: where SUB's result converts back to the difference, adding the subtrahend leaves operand A's converted pattern. -/
theorem addUndoesSub : Obligations.AddUndoesSub := by
  intro s sb hc hw L a ta tb f
  have hL : 1 ≤ L := binaryWidth_pos s.inp
  have ha : a < 2 ^ L := operandA_lt_binary s.inp
  have hd : truncInt L ((ta : Int) - tb) < 2 ^ L := truncInt_lt L _
  obtain ⟨hsub, -, -⟩ := subResult s sb hw
  obtain ⟨u, hadd, herr, hwr, hr⟩ := exec_add_feedBack
    (t := { s with out := successOutputs sb L (fromTC (truncInt L ((ta : Int) - tb)) L sb) (decide (tb ≤ ta)) })
    hc hw (encode (.add f f)) sb (fromTC_lt hL hd sb)
  have hback (hne : sb = .magnitude → truncInt L ((ta : Int) - tb) ≠ 2 ^ (L - 1)) : u.out.r = fromTC ta L sb :=
    calc u.out.r = fromTC (trunc L (toTC (fromTC (truncInt L ((ta : Int) - tb)) L sb) L sb + tb)) L sb := hr
      _ = fromTC ta L sb := by rw [toTC_fromTC hL hd hne, trunc_truncInt_sub_add (toTC_lt hL ha sb)]
  refine ⟨_, u, hsub, rfl, hadd, herr, hwr, fun hsb => ?_, ?_⟩
  · rw [hback fun h => absurd h hsb, fromTC_of_ne_magnitude hsb, trunc_of_lt ha]
    exact toTC_of_ne_magnitude hsb a L
  · rintro rfl hne
    rw [hback fun _ => hne]
    refine ⟨val_fromTC_toTC_magnitude hL ha, fun hzero => ?_⟩
    exact (fromTC_toTC_magnitude hL ha).trans (if_pos hzero)

end Sys2Proof.Machine
end

section
/-! The increment/decrement statements (43_incdec.md): INC and DEC in closed form, and how far each undoes the other. -/

namespace Sys2Proof.Machine

/-! ### INC and DEC in closed form (43_incdec.md R200, R201) -/

/-- The kernel adder with only a carry in: the successor, and a carry out of all ones alone. -/
theorem kadd_zero_true {L t : Nat} (ht : t < 2 ^ L) : kadd t 0 true L = (trunc L (t + 1), t == 2 ^ L - 1) := by
  rw [kadd_eq ht (Nat.two_pow_pos L), Nat.add_zero, Bool.toNat_true, Prod.mk.injEq]
  refine ⟨rfl, Bool.eq_iff_iff.2 ?_⟩
  rw [decide_eq_true_iff, beq_iff_eq]
  omega

/-- The kernel adder on all ones: the predecessor, and a carry out but from zero. -/
theorem kadd_mask_false {L t : Nat} (ht : t < 2 ^ L) : kadd t (mask L) false L = (truncInt L ((t : Int) - 1), t != 0) := by
  apply Prod.ext
  · have hsum := modEq_kadd ht (mask_lt L) Int.ModEq.rfl (modEq_mask L) false
    rw [Bool.toNat_false, Nat.cast_zero, add_zero] at hsum
    exact (truncInt_eq_of_modEq (kadd_fst_lt t _ false L) hsum).symm
  · rw [kadd_snd ht (mask_lt L), Bool.eq_iff_iff, decide_eq_true_iff, bne_iff_ne, mask, Bool.toNat_false]
    omega

section
variable {L a : Nat} (hL : 1 ≤ L) (ha : a < 2 ^ L) (sb : SignBehavior)
include hL ha

theorem increment_eq :
    increment sb L a = (fromTC (trunc L (toTC a L sb + 1)) L sb, toTC a L sb == 2 ^ L - 1) := by
  rw [increment, envelope, kadd_zero_true (toTC_lt hL ha sb)]

theorem decrement_eq :
    decrement sb L a = (fromTC (truncInt L ((toTC a L sb : Int) - 1)) L sb, toTC a L sb != 0) := by
  rw [decrement, envelope, kadd_mask_false (toTC_lt hL ha sb)]

end

theorem increment_fst_lt {L : Nat} (hL : 1 ≤ L) (sb : SignBehavior) (a : Nat) : (increment sb L a).1 < 2 ^ L :=
  fromTC_lt hL (kadd_fst_lt _ _ _ L) sb

theorem decrement_fst_lt {L : Nat} (hL : 1 ≤ L) (sb : SignBehavior) (a : Nat) : (decrement sb L a).1 < 2 ^ L :=
  fromTC_lt hL (kadd_fst_lt _ _ _ L) sb

/-- Everything a unary operation that passes its checks puts on the ports, where its pattern is within the working width. -/
theorem unaryResponse_ports_of_lt {c : Config} {x : Inputs} {sb : SignBehavior} (hw : x.wa ≤ c.nmax)
    {operation : SignBehavior → Nat → Nat → Nat × Bool}
    (hlt : (operation sb (unaryWidth x) (operandA x)).1 < 2 ^ unaryWidth x) :
    (unaryResponse c x (fieldOfSign sb) operation).ports =
      successOutputs sb (unaryWidth x) (operation sb (unaryWidth x) (operandA x)).1
        (operation sb (unaryWidth x) (operandA x)).2 := by
  rw [unaryResponse_ok c x sb hw, resultResponse_ports_of_lt hlt]

/-! ### The one after the other (43_incdec.md R202) -/

/-- Under Unsigned and Signed nothing is converted. -/
theorem fromTC_toTC_of_ne_magnitude {sb : SignBehavior} (hsb : sb ≠ .magnitude) (x n : Nat) :
    fromTC (toTC x n sb) n sb = x := by
  rw [fromTC_of_ne_magnitude hsb, toTC_of_ne_magnitude hsb]

/-- Subtracting what was added gives the first summand back. -/
theorem truncInt_trunc_add_sub {n x : Nat} (hx : x < 2 ^ n) (y : Nat) :
    truncInt n ((trunc n (x + y) : Int) - y) = x := by
  have hsum : (trunc n (x + y) : Int) ≡ x + y [ZMOD 2 ^ n] := by
    rw [trunc]
    push_cast
    exact Int.mod_modEq _ _
  have hback := hsum.sub_right (y : Int)
  rw [add_sub_cancel_right] at hback
  exact truncInt_eq_of_modEq hx hback.symm

section
variable {L a : Nat} (hL : 1 ≤ L) (ha : a < 2 ^ L) {sb : SignBehavior}
include hL ha

/-- Where the successor converts to a pattern and back, DEC of INC leaves operand A's converted pattern. -/
theorem decrement_increment (hne : sb = .magnitude → trunc L (toTC a L sb + 1) ≠ 2 ^ (L - 1)) :
    (decrement sb L (increment sb L a).1).1 = fromTC (toTC a L sb) L sb := by
  rw [decrement_eq hL (increment_fst_lt hL sb a), increment_eq hL ha, toTC_fromTC hL (trunc_lt L _) hne]
  exact congrArg (fromTC · L sb) (truncInt_trunc_add_sub (toTC_lt hL ha sb) 1)

/-- Where the predecessor converts to a pattern and back, INC of DEC leaves operand A's converted pattern. -/
theorem increment_decrement (hne : sb = .magnitude → truncInt L ((toTC a L sb : Int) - 1) ≠ 2 ^ (L - 1)) :
    (increment sb L (decrement sb L a).1).1 = fromTC (toTC a L sb) L sb := by
  rw [increment_eq hL (decrement_fst_lt hL sb a), decrement_eq hL ha, toTC_fromTC hL (truncInt_lt L _) hne]
  exact congrArg (fromTC · L sb) (trunc_truncInt_sub_add (toTC_lt hL ha sb) 1)

end

/-! ### -0 and the wrap cases under Magnitude (43_incdec.md R202) -/

section
variable {L : Nat} (hL : 2 ≤ L)
include hL

theorem two_le_half : 2 ≤ 2 ^ (L - 1) := le_self_pow₀ (by decide) (by omega)

theorem minusZero_lt : 2 ^ (L - 1) < 2 ^ L := Nat.pow_lt_pow_right (by decide) (by omega)

theorem toTC_minusZero : toTC (2 ^ (L - 1)) L .magnitude = 0 := by
  rw [toTC_magnitude (by omega) (minusZero_lt hL), if_pos rfl]

theorem fromTC_half : fromTC (2 ^ (L - 1)) L .magnitude = 2 ^ (L - 1) := by
  rw [fromTC_magnitude (by omega) (minusZero_lt hL), if_pos le_rfl]

/-- INC of the largest Magnitude value wraps to -0. -/
theorem increment_largest : (increment .magnitude L (2 ^ (L - 1) - 1)).1 = 2 ^ (L - 1) := by
  have hhalf := minusZero_lt hL
  have hpos := two_le_half hL
  have hta : toTC (2 ^ (L - 1) - 1) L .magnitude = 2 ^ (L - 1) - 1 := by
    rw [toTC_magnitude (by omega) (by omega), if_neg (by omega), if_pos (by omega)]
  rw [increment_eq (by omega) (by omega), hta, Nat.sub_add_cancel (by omega), trunc_of_lt hhalf, fromTC_half hL]

/-- DEC of the most negative Magnitude value wraps to -0. -/
theorem decrement_mostNegative : (decrement .magnitude L (2 ^ L - 1)).1 = 2 ^ (L - 1) := by
  have hsum := two_pow_eq_half_add_half (n := L) (by omega)
  have hpos := two_le_half hL
  have hta : toTC (2 ^ L - 1) L .magnitude = 2 ^ (L - 1) + 1 := by
    rw [toTC_magnitude (by omega) (by omega), if_neg (by omega), if_neg (by omega)]
    omega
  have hpred : truncInt L (((2 ^ (L - 1) + 1 : Nat) : Int) - 1) = 2 ^ (L - 1) := by
    rw [Nat.cast_succ, add_sub_cancel_right]
    exact truncInt_eq_of_modEq (minusZero_lt hL) Int.ModEq.rfl
  rw [decrement_eq (by omega) (by omega), hta, hpred, fromTC_half hL]

theorem val_minusZero : val (2 ^ (L - 1)) L .magnitude = 0 :=
  (val_magnitude_eq_zero_iff (by omega) (minusZero_lt hL)).2 (.inr rfl)

theorem val_decrement_minusZero : val (decrement .magnitude L (2 ^ (L - 1))).1 L .magnitude = -1 := by
  have hhalf : (2 : Int) ≤ 2 ^ (L - 1) := mod_cast two_le_half hL
  have hval := val_decrement_magnitude (by omega) (minusZero_lt hL)
  rw [val_minusZero hL] at hval
  exact hval ⟨by omega, by omega⟩

theorem val_increment_minusZero : val (increment .magnitude L (2 ^ (L - 1))).1 L .magnitude = 1 := by
  have hhalf : (2 : Int) ≤ 2 ^ (L - 1) := mod_cast two_le_half hL
  have hval := val_increment_magnitude (by omega) (minusZero_lt hL)
  rw [val_minusZero hL] at hval
  exact hval ⟨by omega, by omega⟩

theorem decrement_increment_minusZero : (decrement .magnitude L (increment .magnitude L (2 ^ (L - 1))).1).1 = 0 := by
  have hhalf := two_le_half hL
  have hlt := minusZero_lt hL
  have hne : trunc L (toTC (2 ^ (L - 1)) L .magnitude + 1) ≠ 2 ^ (L - 1) := by
    rw [toTC_minusZero hL, trunc_of_lt (by omega)]
    omega
  rw [decrement_increment (by omega) hlt fun _ => hne, fromTC_toTC_magnitude (by omega) hlt, if_pos rfl]

theorem increment_decrement_minusZero : (increment .magnitude L (decrement .magnitude L (2 ^ (L - 1))).1).1 = 0 := by
  have hhalf := two_le_half hL
  have hsum := two_pow_eq_half_add_half (n := L) (by omega)
  have hlt := minusZero_lt hL
  have hne : truncInt L ((toTC (2 ^ (L - 1)) L .magnitude : Int) - 1) ≠ 2 ^ (L - 1) := by
    rw [toTC_minusZero hL, Nat.cast_zero, zero_sub, truncInt_eq_of_modEq (mask_lt L) (modEq_mask L), mask]
    omega
  rw [increment_decrement (by omega) hlt fun _ => hne, fromTC_toTC_magnitude (by omega) hlt, if_pos rfl]

end

/-! ### The obligations -/

/-- Settles O28: INC is the kernel's successor, already within the working width. -/
theorem incResult : Obligations.IncResult := by
  intro s sb hw
  have hL := normWidth_pos s.inp.wa
  rw [exec_eq_answer, State.answer, responseOf, unaryResponse_ports_of_lt hw (increment_fst_lt hL sb _), unaryWidth,
    increment_eq hL (operandA_lt s.inp)]

/-- Settles O29: DEC is the kernel's predecessor, already within the working width. -/
theorem decResult : Obligations.DecResult := by
  intro s sb hw
  have hL := normWidth_pos s.inp.wa
  rw [exec_eq_answer, State.answer, responseOf, unaryResponse_ports_of_lt hw (decrement_fst_lt hL sb _), unaryWidth,
    decrement_eq hL (operandA_lt s.inp)]

/-- Settles O49: where the first result converts back, the second operation leaves operand A converted there and back, which is operand
A under Unsigned and Signed and has its value under Magnitude. -/
theorem incDecUndoEachOther : Obligations.IncDecUndoEachOther := by
  intro L a hL ha
  refine ⟨fun sb hsb => ⟨?_, ?_⟩, fun hne => ?_, fun hne => ?_, fun hL2 => ?_⟩
  · rw [decrement_increment hL ha fun h => absurd h hsb, fromTC_toTC_of_ne_magnitude hsb]
  · rw [increment_decrement hL ha fun h => absurd h hsb, fromTC_toTC_of_ne_magnitude hsb]
  · rw [decrement_increment hL ha fun _ => hne, val_fromTC_toTC_magnitude hL ha]
  · rw [increment_decrement hL ha fun _ => hne, val_fromTC_toTC_magnitude hL ha]
  · exact ⟨increment_largest hL2, decrement_mostNegative hL2, val_decrement_minusZero hL2, val_increment_minusZero hL2,
      decrement_increment_minusZero hL2, increment_decrement_minusZero hL2⟩

end Sys2Proof.Machine
end

section
/-! The arithmetic-negate statements (44_negate.md): NEG in closed form under each sign behaviour, and NEG as negation of the value. -/

namespace Sys2Proof.Machine

/-! ### Negation of a Signed pattern (40_datapath.md R131) -/

section
variable {n x : Nat} (hn : 1 ≤ n) (hx : x < 2 ^ n)
include hn hx

theorem neg_lt : neg n x < 2 ^ n := by
  rw [neg_eq_trunc hn hx]
  exact trunc_lt n _

/-- A negated pattern stands for the negated number modulo `2^n`. -/
theorem modEq_neg : (neg n x : Int) ≡ -x [ZMOD 2 ^ n] := by
  rw [neg_eq_trunc hn hx, trunc]
  push_cast [hx.le]
  exact (Int.mod_modEq _ _).trans (Int.modEq_iff_dvd.2 ⟨-1, by ring⟩)

theorem neg_eq_truncInt : neg n x = truncInt n (-(x : Int)) :=
  (truncInt_eq_of_modEq (neg_lt hn hx) (modEq_neg hn hx)).symm

/-- Negating twice gives a number congruent to `x`, and both are patterns of the width. -/
theorem neg_neg_pattern : neg n (neg n x) = x := by
  have hback : (x : Int) ≡ -(neg n x : Int) [ZMOD 2 ^ n] := by
    simpa only [neg_neg] using (modEq_neg hn hx).neg.symm
  rw [neg_eq_truncInt hn (neg_lt hn hx)]
  exact truncInt_eq_of_modEq hx hback

/-- Every Signed value but the least has its negation in range. -/
theorem inRange_neg_val_signed (hne : x ≠ 2 ^ (n - 1)) : inRange (-val x n .signed) n .signed := by
  have hhalf := two_pow_eq_half_add_half hn
  rw [inRange, val_signed hn hx]
  have hcast : ((2 ^ n : Nat) : Int) = 2 ^ n ∧ ((2 ^ (n - 1) : Nat) : Int) = 2 ^ (n - 1) := by norm_cast
  split_ifs <;> omega

theorem val_neg_signed (hne : x ≠ 2 ^ (n - 1)) : val (neg n x) n .signed = -val x n .signed := by
  have hres : neg n x = truncInt n (-val x n .signed) :=
    (truncInt_eq_of_modEq (neg_lt hn hx) ((modEq_neg hn hx).trans (modEq_val_signed x n).neg)).symm
  rw [hres, val_truncInt_signed hn (inRange_neg_val_signed hn hx hne)]

end

/-! ### The flipped sign bit of a Magnitude pattern (44_negate.md R220) -/

theorem topBit_xor_half (x n : Nat) : topBit (x ^^^ 2 ^ (n - 1)) n = !topBit x n := by
  rw [topBit, Nat.testBit_xor, Nat.testBit_two_pow_self, Bool.xor_true, topBit]

theorem xor_half_and_mask (x n : Nat) : (x ^^^ 2 ^ (n - 1)) &&& mask (n - 1) = x &&& mask (n - 1) := by
  refine and_mask_congr fun k hk => ?_
  rw [Nat.testBit_xor, Nat.testBit_two_pow_of_ne hk.ne', Bool.xor_false]

/-- The flip changes the sign and leaves the magnitude. -/
theorem val_xor_half_magnitude (x n : Nat) : val (x ^^^ 2 ^ (n - 1)) n .magnitude = -val x n .magnitude := by
  rw [val, val, topBit_xor_half, xor_half_and_mask]
  cases topBit x n with
  | false => rfl
  | true => exact (neg_neg _).symm

theorem xor_half_lt {n x : Nat} (hn : 1 ≤ n) (hx : x < 2 ^ n) : x ^^^ 2 ^ (n - 1) < 2 ^ n :=
  Nat.xor_lt_two_pow hx (Nat.pow_lt_pow_right (by decide) (Nat.sub_one_lt_of_lt hn))

/-! ### The operation -/

theorem negate_fst_lt {L a : Nat} (hL : 1 ≤ L) (ha : a < 2 ^ L) (sb : SignBehavior) : (negate sb L a).1 < 2 ^ L := by
  cases sb with
  | unsigned => exact ha
  | signed => exact neg_lt hL ha
  | magnitude => exact xor_half_lt hL ha

theorem negate_negate {L a : Nat} (hL : 1 ≤ L) (ha : a < 2 ^ L) (sb : SignBehavior) :
    (negate sb L (negate sb L a).1).1 = a := by
  cases sb with
  | unsigned => rfl
  | signed => exact neg_neg_pattern hL ha
  | magnitude => exact Nat.xor_xor_cancel_right a _

/-- NEG of a width within the parameter completes, its pattern already within the working width. -/
theorem exec_neg {s : State} (hw : s.inp.wa ≤ s.cfg.nmax) (sb : SignBehavior) :
    exec (.neg (fieldOfSign sb)) s =
      .next { s with
        out := successOutputs sb (normWidth s.inp.wa) (negate sb (normWidth s.inp.wa) (operandA s.inp)).1
          (negate sb (normWidth s.inp.wa) (operandA s.inp)).2 } := by
  have hlt := negate_fst_lt (normWidth_pos s.inp.wa) (operandA_lt s.inp) sb
  rw [exec_eq_answer, State.answer, responseOf, unaryResponse_ports_of_lt hw hlt, unaryWidth]

/-! ### The obligations -/

/-- Settles O30: NEG completes with `negate`'s pattern, whose Signed case is the residue of `-a`. -/
theorem negResult : Obligations.NegResult := by
  intro s hw
  refine ⟨exec_neg hw .unsigned, ?_, exec_neg hw .magnitude⟩
  rw [← neg_eq_truncInt (normWidth_pos s.inp.wa) (operandA_lt s.inp)]
  exact exec_neg hw .signed

/-- Settles O47: the Signed residue stands for the negated value where that is in range, the flipped sign bit always does, and each is
undone by itself. -/
theorem negNegatesTheValue : Obligations.NegNegatesTheValue := by
  intro L a hL ha
  exact ⟨neg_eq_trunc hL ha, val_neg_signed hL ha, val_xor_half_magnitude a L, negate_negate hL ha⟩

end Sys2Proof.Machine
end

section
/-! The bitwise statements (45_bitwise.md): the six named operations and MAP in closed form, and MAP at the table values that name
an operation. -/

namespace Sys2Proof.Machine

/-! ### Patterns within a width (00_scope.md R12) -/

theorem eq_of_testBit_eq_below {v w n : Nat} (hv : v < 2 ^ n) (hw : w < 2 ^ n)
    (h : ∀ k < n, v.testBit k = w.testBit k) : v = w := by
  rw [← and_mask_of_lt hv, and_mask_congr h, and_mask_of_lt hw]

theorem testBit_notWithin {n v k : Nat} (hv : v < 2 ^ n) (hk : k < n) : (notWithin n v).testBit k = !v.testBit k := by
  rw [notWithin, mask, Nat.sub_sub, Nat.add_comm, Nat.testBit_two_pow_sub_succ hv, decide_eq_true hk, Bool.true_and]

theorem allOnes_xor_lt {n v : Nat} (hv : v < 2 ^ n) : (2 ^ n - 1) ^^^ v < 2 ^ n := Nat.xor_lt_two_pow (mask_lt n) hv

/-- The complement is the exclusive OR with all ones. -/
theorem notWithin_eq_xor {n v : Nat} (hv : v < 2 ^ n) : notWithin n v = (2 ^ n - 1) ^^^ v := by
  refine eq_of_testBit_eq_below (notWithin_lt n v) (allOnes_xor_lt hv) fun k hk => ?_
  rw [testBit_notWithin hv hk, Nat.testBit_xor, Nat.testBit_two_pow_sub_one, decide_eq_true hk, Bool.true_xor]

theorem mapBits_lt (tt : TruthTable) (a b n : Nat) : mapBits tt a b n < 2 ^ n := by
  apply Nat.lt_pow_two_of_testBit
  intro k hk
  rw [testBit_mapBits, decide_eq_false (Nat.not_lt.2 hk), Bool.false_and]

/-! ### MAP at a table value (45_bitwise.md R252) -/

/-- Where the table lists the values of `g`, a pattern of the width whose bits are `g` of the operands' bits is MAP's. -/
theorem mapBits_eq {tt : TruthTable} {g : Bool → Bool → Bool} (htable : ∀ p q, ttBit tt p q = g p q) {a b n v : Nat}
    (hv : v < 2 ^ n) (hbits : ∀ k, v.testBit k = g (a.testBit k) (b.testBit k)) : mapBits tt a b n = v := by
  refine eq_of_testBit_eq_below (mapBits_lt tt a b n) hv fun k hk => ?_
  rw [testBit_mapBits, decide_eq_true hk, Bool.true_and, htable, hbits]

/-- The complemented table gives the complement within the width. -/
theorem mapBits_not (tt : TruthTable) (a b n : Nat) : mapBits (~~~tt) a b n = notWithin n (mapBits tt a b n) := by
  have htable : ∀ p q, ttBit (~~~tt) p q = !ttBit tt p q := by revert tt; decide
  refine eq_of_testBit_eq_below (mapBits_lt _ a b n) (notWithin_lt n _) fun k hk => ?_
  rw [testBit_notWithin (mapBits_lt tt a b n) hk, testBit_mapBits, testBit_mapBits, htable, decide_eq_true hk, Bool.true_and,
    Bool.true_and]

theorem mapBits_and (a : Nat) {b n : Nat} (hb : b < 2 ^ n) : mapBits 0x8#4 a b n = a &&& b :=
  mapBits_eq (g := and) (by decide) (Nat.and_lt_two_pow a hb) (Nat.testBit_and a b)

theorem mapBits_or {a b n : Nat} (ha : a < 2 ^ n) (hb : b < 2 ^ n) : mapBits 0xE#4 a b n = a ||| b :=
  mapBits_eq (g := or) (by decide) (Nat.or_lt_two_pow ha hb) (Nat.testBit_or a b)

theorem mapBits_xor {a b n : Nat} (ha : a < 2 ^ n) (hb : b < 2 ^ n) : mapBits 0x6#4 a b n = a ^^^ b :=
  mapBits_eq (g := Bool.xor) (by decide) (Nat.xor_lt_two_pow ha hb) (Nat.testBit_xor a b)

theorem mapBits_operandA {a n : Nat} (ha : a < 2 ^ n) (b : Nat) : mapBits 0xC#4 a b n = a :=
  mapBits_eq (g := fun p _ => p) (by decide) ha fun _ => rfl

theorem mapBits_operandB (a : Nat) {b n : Nat} (hb : b < 2 ^ n) : mapBits 0xA#4 a b n = b :=
  mapBits_eq (g := fun _ q => q) (by decide) hb fun _ => rfl

theorem mapBits_zero (a b n : Nat) : mapBits 0x0#4 a b n = 0 :=
  mapBits_eq (g := fun _ _ => false) (by decide) (Nat.two_pow_pos n) Nat.zero_testBit

/-! ### The response of a bitwise request (`BITWISE_COMMON` of 45_bitwise.md) -/

/-- `FO` is 0 on a success, and on an error too (60_exceptions.md R300). -/
theorem matchedResponse_bitwise_fo (c : Config) (x : Inputs) (sba sbb : SignField) (pattern : Nat → Nat → Nat → Nat) :
    (matchedResponse c x sba sbb (bitwise pattern)).ports.fo = false := by
  unfold matchedResponse
  cases checkMatched c x sba sbb <;> rfl

section
variable {s : State} {sba sbb : SignField} {sb : SignBehavior} {i : Instr} {pattern : Nat → Nat → Nat → Nat} {r : Nat}

/-- A bitwise instruction that passes its checks completes with its pattern, where that is within the working width. -/
theorem exec_bitwise (hw : s.inp.widthsFit s.cfg)
    (hi : responseOf s.cfg s.inp i = matchedResponse s.cfg s.inp (fieldOfSign sb) (fieldOfSign sb) (bitwise pattern))
    (hr : pattern (binaryWidth s.inp) (operandA s.inp) (operandB s.inp) = r) (hlt : r < 2 ^ binaryWidth s.inp) :
    exec i s = .next { s with out := successOutputs sb (binaryWidth s.inp) r false } := by
  subst hr
  rw [exec_eq_answer, State.answer, hi, matchedResponse_ok _ _ sb hw, resultResponse_ports_of_lt hlt]
  rfl

/-- One that complements its pattern completes with all ones in exclusive OR with it. -/
theorem exec_bitwise_not (hw : s.inp.widthsFit s.cfg)
    (hi : responseOf s.cfg s.inp i = matchedResponse s.cfg s.inp (fieldOfSign sb) (fieldOfSign sb)
      (bitwise fun L a b => notWithin L (pattern L a b)))
    (hr : pattern (binaryWidth s.inp) (operandA s.inp) (operandB s.inp) = r) (hlt : r < 2 ^ binaryWidth s.inp) :
    exec i s =
      .next { s with out := successOutputs sb (binaryWidth s.inp) ((2 ^ binaryWidth s.inp - 1) ^^^ r) false } := by
  subst hr
  exact exec_bitwise hw hi (notWithin_eq_xor hlt) (allOnes_xor_lt hlt)

theorem exec_map {tt : TruthTable} (hw : s.inp.widthsFit s.cfg)
    (hr : mapBits tt (operandA s.inp) (operandB s.inp) (binaryWidth s.inp) = r) :
    exec (.map tt (fieldOfSign sb) (fieldOfSign sb)) s =
      .next { s with out := successOutputs sb (binaryWidth s.inp) r false } :=
  exec_bitwise hw rfl hr (hr ▸ mapBits_lt tt _ _ _)

/-- MAP answers as any bitwise instruction whose pattern is MAP's, an error included: the checks are the same. -/
theorem exec_map_eq {tt : TruthTable}
    (hi : responseOf s.cfg s.inp i = matchedResponse s.cfg s.inp sba sbb (bitwise pattern))
    (hpattern : mapBits tt (operandA s.inp) (operandB s.inp) (binaryWidth s.inp) =
      pattern (binaryWidth s.inp) (operandA s.inp) (operandB s.inp)) :
    exec (.map tt sba sbb) s = exec i s := by
  rw [exec_eq_answer, exec_eq_answer, hi]
  simp only [responseOf, matchedResponse, bitwise, hpattern]

end

/-! ### The obligations -/

/-- Settles O31: each pattern is within the working width, since both padded operands are. -/
theorem bitwiseResults : Obligations.BitwiseResults := by
  intro s sb hw
  have ha := operandA_lt_binary s.inp
  have hb := operandB_lt_binary s.inp
  have hand := Nat.and_lt_two_pow (operandA s.inp) hb
  have hor := Nat.or_lt_two_pow ha hb
  have hxor := Nat.xor_lt_two_pow ha hb
  exact ⟨exec_bitwise hw rfl rfl hand, exec_bitwise hw rfl rfl hor, exec_bitwise hw rfl rfl hxor,
    exec_bitwise_not hw rfl rfl hand, exec_bitwise_not hw rfl rfl hor, exec_bitwise_not hw rfl rfl hxor⟩

/-- Settles O32: the result is MAP's loop over the working width, read bit by bit. -/
theorem mapResult : Obligations.MapResult := by
  intro s sb tt hw
  exact ⟨_, exec_map hw rfl, testBit_mapBits tt _ _ _⟩

/-- Settles O33: the table value fixes MAP's pattern, and a complemented value complements it. -/
theorem mapAtTableValues : Obligations.MapAtTableValues := by
  constructor
  · intro s sba sbb
    have ha := operandA_lt_binary s.inp
    have hb := operandB_lt_binary s.inp
    have hand := mapBits_and (operandA s.inp) hb
    have hor := mapBits_or ha hb
    have hxor := mapBits_xor ha hb
    exact ⟨exec_map_eq rfl hand, exec_map_eq rfl hor, exec_map_eq rfl hxor,
      exec_map_eq rfl ((mapBits_not 0x8#4 _ _ _).trans (congrArg _ hand)),
      exec_map_eq rfl ((mapBits_not 0xE#4 _ _ _).trans (congrArg _ hor)),
      exec_map_eq rfl ((mapBits_not 0x6#4 _ _ _).trans (congrArg _ hxor))⟩
  · intro s sb hw
    have ha := operandA_lt_binary s.inp
    have hb := operandB_lt_binary s.inp
    have hnotB := mapBits_not 0xA#4 (operandA s.inp) (operandB s.inp) (binaryWidth s.inp)
    have hones := mapBits_not 0x0#4 (operandA s.inp) (operandB s.inp) (binaryWidth s.inp)
    rw [mapBits_operandB _ hb, notWithin_eq_xor hb] at hnotB
    rw [mapBits_zero] at hones
    exact ⟨exec_map hw (mapBits_three ha _), exec_map hw (mapBits_operandA ha _), exec_map hw (mapBits_operandB _ hb),
      exec_map hw hnotB, exec_map hw (mapBits_zero _ _ _), exec_map hw hones⟩

/-- Settles O37: every bitwise instruction has the one response shape, whose `FO` is 0; the other flags are those of any success. -/
theorem bitwiseOverflowIsZero : Obligations.BitwiseOverflowIsZero := by
  intro s t sba sbb tt i hi hexec herr
  obtain ⟨⟨pattern, hpattern⟩, hcmp⟩ :
      (∃ pattern, responseOf s.cfg s.inp i = matchedResponse s.cfg s.inp sba sbb (bitwise pattern)) ∧ i.isCmp = false := by
    rcases hi with rfl | rfl | rfl | rfl | rfl | rfl | rfl <;> exact ⟨⟨_, rfl⟩, rfl⟩
  refine ⟨?_, flagsReadTheResult i s t hcmp hexec herr⟩
  rw [eq_answer_of_exec hexec, State.answer_out, hpattern, matchedResponse_bitwise_fo]

end Sys2Proof.Machine
end

section
/-! The comparator statements (46_compare.md): CMP's ports in closed form, and its outcome as the order of the operands' values. -/

namespace Sys2Proof.Machine

/-! ### A comparison on the ports (46_compare.md R270, R271) -/

/-- The value that CMP reads of the pattern `p` on a data port, with `n` on its width port, under the behaviour `sb`. -/
def portValue (p n : Nat) (sb : SignBehavior) : Int := val (p &&& mask (normWidth n)) (normWidth n) sb

/-- A pattern within its width is read whole. -/
theorem portValue_of_lt {p n : Nat} (hn : 1 ≤ n) (hp : p < 2 ^ n) (sb : SignBehavior) : portValue p n sb = val p n sb := by
  rw [portValue, normWidth_of_pos hn, and_mask_of_lt hp]

/-- Everything a CMP that passes its checks puts on the ports. -/
theorem valueResponse_ports {c : Config} {x : Inputs} (hw : x.widthsFit c) (sa sb : SignBehavior) :
    (valueResponse c x (fieldOfSign sa) (fieldOfSign sb)).ports =
      comparedOutputs (portValue x.a x.wa sa) (portValue x.b x.wb sb) := by
  rw [valueResponse_ok c x sa sb hw, compareResponse_ports]
  rfl

/-! ### The three codes of `ORD` (10_state.md R42) -/

section
variable (va vb : Int)

theorem comparedOutputs_ord_equal_iff : (comparedOutputs va vb).ord = 0#2 ↔ va = vb := by
  rw [comparedOutputs]
  split_ifs with heq hlt <;> simp [heq]

theorem comparedOutputs_ord_less_iff : (comparedOutputs va vb).ord = 1#2 ↔ va < vb := by
  rw [comparedOutputs]
  split_ifs with heq hlt
  · simp [heq]
  · simp [hlt]
  · simp [hlt]

theorem comparedOutputs_ord_greater_iff : (comparedOutputs va vb).ord = 2#2 ↔ vb < va := by
  rw [comparedOutputs]
  split_ifs with heq hlt
  · simp [heq]
  · simp [hlt.le]
  · simpa using lt_of_le_of_ne (not_lt.1 hlt) (Ne.symm heq)

end

/-! ### `ORD` is the order of the values (46_compare.md R273) -/

/-- The request whose `ORD` is `ordOf`. -/
def compareRequest (p n : Nat) (sp : SignBehavior) (q m : Nat) (sq : SignBehavior) : Inputs :=
  { cw := encode (.cmp (fieldOfSign sp) (fieldOfSign sq)), a := p, wa := n, b := q, wb := m, cin := false }

theorem ordOf_eq_respond (c : Config) (p n : Nat) (sp : SignBehavior) (q m : Nat) (sq : SignBehavior) :
    ordOf c p n sp q m sq = (respond c (compareRequest p n sp q m sq)).map fun o => o.ord := rfl

theorem decode_compareRequest (p n : Nat) (sp : SignBehavior) (q m : Nat) (sq : SignBehavior) :
    decode (compareRequest p n sp q m sq).cw = .ok (.cmp (fieldOfSign sp) (fieldOfSign sq)) :=
  decode_encode (.cmp (fieldOfSign sp) (fieldOfSign sq))

section
variable {c : Config} {p q n m : Nat} {sp sq : SignBehavior} (hn : n ≤ c.nmax) (hm : m ≤ c.nmax)
include hn hm

theorem ordOf_eq : ordOf c p n sp q m sq = some (comparedOutputs (portValue p n sp) (portValue q m sq)).ord := by
  rw [ordOf_eq_respond, respond_of_decode (decode_compareRequest p n sp q m sq), responseOf, valueResponse_ports ⟨hn, hm⟩]
  rfl

theorem ordOf_equal_iff : ordOf c p n sp q m sq = some 0#2 ↔ portValue p n sp = portValue q m sq := by
  rw [ordOf_eq hn hm, Option.some_inj, comparedOutputs_ord_equal_iff]

theorem ordOf_less_iff : ordOf c p n sp q m sq = some 1#2 ↔ portValue p n sp < portValue q m sq := by
  rw [ordOf_eq hn hm, Option.some_inj, comparedOutputs_ord_less_iff]

theorem ordOf_greater_iff : ordOf c p n sp q m sq = some 2#2 ↔ portValue q m sq < portValue p n sp := by
  rw [ordOf_eq hn hm, Option.some_inj, comparedOutputs_ord_greater_iff]

theorem ordOf_ne_greater_iff : ordOf c p n sp q m sq ≠ some 2#2 ↔ portValue p n sp ≤ portValue q m sq := by
  rw [Ne, ordOf_greater_iff hn hm, not_lt]

end

/-! ### The obligations -/

/-- Settles O34: a comparison that passes its checks shows the order of the two values that it reads. -/
theorem cmpResult : Obligations.CmpResult := by
  intro s sa sb hw
  rw [exec_eq_answer, State.answer, responseOf, valueResponse_ports hw]
  rfl

/-- Settles O35: each code of `ORD` is a relation of integers, so the laws are those of the order of the integers. -/
theorem cmpOrdersValues : Obligations.CmpOrdersValues := by
  refine ⟨?widths, ?reflexive, ?swapped, ?transitive, ?differing⟩
  case widths =>
    intro c sb v p₁ p₂ n₁ n₂ hn₁ hfit₁ hn₂ hfit₂ hp₁ hp₂ hv₁ hv₂
    rw [ordOf_equal_iff hfit₁ hfit₂, portValue_of_lt hn₁ hp₁, portValue_of_lt hn₂ hp₂, hv₁, hv₂]
  case reflexive =>
    intro c p n sb hn
    exact (ordOf_equal_iff hn hn).2 rfl
  case swapped =>
    intro c p q n m sp sq hn hm
    rw [ordOf_less_iff hn hm, ordOf_greater_iff hm hn, ordOf_equal_iff hn hm, ordOf_equal_iff hm hn, ordOf_greater_iff hn hm]
    exact ⟨Iff.rfl, eq_comm, (lt_trichotomy _ _).elim (.inr ∘ .inl) (.imp_right .inr)⟩
  case transitive =>
    intro c p q r n m k sp sq sr hpq hqr hn hm hk
    rw [ordOf_ne_greater_iff hn hm] at hpq
    rw [ordOf_ne_greater_iff hm hk] at hqr
    exact (ordOf_ne_greater_iff hn hk).2 (hpq.trans hqr)
  case differing =>
    exact ⟨{ nmax := 4 }, 0b1111, 0b11, 4, 2, .signed, .magnitude, by decide⟩

end Sys2Proof.Machine
end

section
/-! The exception and reset statements (60_exceptions.md, 70_reset_and_hazards.md): `ERR` is the first failing check of R308, read off
the ports or off the decoded instruction; each error statement is about that order of checks. -/

namespace Sys2Proof.Machine

/-! ### The fields of a decoded word (30_encoding.md R81, R91) -/

theorem signFieldOfCode_eq_reserved_iff (c : Code2) : signFieldOfCode c = .reserved ↔ c = 3#2 := by revert c; decide

theorem signFieldOfCode_inj {c d : Code2} : signFieldOfCode c = signFieldOfCode d ↔ c = d :=
  (Function.LeftInverse.injective codeOfSignField_signFieldOfCode).eq_iff

theorem binaryOpcode_eq_false_iff (op : BitVec 4) :
    binaryOpcode op = false ↔ op = 0x3#4 ∨ op = 0x4#4 ∨ op = 0x5#4 := by
  revert op; decide

theorem binaryOpcode_iff (op : BitVec 4) : binaryOpcode op = true ↔ op ≠ 0x3#4 ∧ op ≠ 0x4#4 ∧ op ≠ 0x5#4 := by
  revert op; decide

theorem isCmp_eq (i : Instr) : i.isCmp = (opOfInstr i == 0xD#4) := by cases i <;> rfl

/-- The two reserved opcodes name no operation (30_encoding.md R92). -/
theorem instrOfOp_eq_none_iff (op : BitVec 4) (tt : TruthTable) (a b : SignField) :
    instrOfOp op tt a b = none ↔ op = 0xE#4 ∨ op = 0xF#4 := by
  have hopcodes : ∀ op : BitVec 4, instrOfOp op 0#4 .unsigned .unsigned = none ↔ op = 0xE#4 ∨ op = 0xF#4 := by decide
  rw [← hopcodes]
  unfold instrOfOp
  split <;> simp

/-- What a named instruction has of its word. -/
theorem fields_of_namedInstr {cw : ControlWord} {i : Instr} (h : namedInstr cw = some i) :
    opOfInstr i = opField cw ∧ i.isBinary = binaryOpcode (opField cw) ∧ i.sba = signFieldOfCode (sbaField cw) ∧
      i.sbb? = if binaryOpcode (opField cw) then some (signFieldOfCode (sbbField cw)) else none := by
  obtain ⟨hop, hsba, hsbb, -⟩ := instrOfOp_fields h
  have hbin : i.isBinary = binaryOpcode (opField cw) := by rw [← hop, binaryOpcode_opOfInstr]
  exact ⟨hop, hbin, hsba, hbin ▸ hsbb⟩

/-- Everything the decoder rejects: one of the four sub-checks of 30_encoding.md R91 fails (60_exceptions.md R302, R303). -/
theorem exists_decode_error_iff (cw : ControlWord) :
    (∃ e, decode cw = .error e) ↔
      ((topField cw ≠ 0#4 ∨ opField cw = 0xE#4 ∨ opField cw = 0xF#4) ∨ opField cw ≠ 0xC#4 ∧ ttField cw ≠ 0#4) ∨
        binaryOpcode (opField cw) = false ∧ sbbField cw ≠ 0#2 := by
  rw [decode, ← namedInstr]
  cases hnamed : namedInstr cw with
  | none =>
    have hop := (instrOfOp_eq_none_iff ..).1 hnamed
    refine iff_of_true ?_ (.inl (.inl (.inr hop)))
    dsimp only
    split_ifs <;> exact ⟨_, rfl⟩
  | some i =>
    have hop : ¬(opField cw = 0xE#4 ∨ opField cw = 0xF#4) := fun hop => by
      cases hnamed.symm.trans ((instrOfOp_eq_none_iff ..).2 hop)
    obtain ⟨-, hbin, -⟩ := fields_of_namedInstr hnamed
    rw [← hbin, or_iff_left hop]
    dsimp only
    split_ifs with htop htt hsbb
    · simp [htop]
    · simp [htt]
    · simp [hsbb]
    · simp [htop, htt, hsbb]

/-! ### `ERR` of a decoded instruction (60_exceptions.md R304 to R308) -/

/-- `ERR` by the checks of 60_exceptions.md R308 that follow decoding, read off the instruction and the width ports. -/
def instrErr (c : Config) (wa wb : Nat) (i : Instr) : ErrField :=
  if i.signsLegal = false then 2#3
  else if c.nmax < wa ∨ (i.isBinary = true ∧ c.nmax < wb) then 3#3
  else if i.signsAgree = false then 4#3
  else 0#3

theorem signsLegal_eq_false_iff (i : Instr) : i.signsLegal = false ↔ i.sba = .reserved ∨ i.sbb? = some .reserved := by
  rw [← Bool.not_eq_true, signsLegal_iff, not_and_or, not_not, not_not]

theorem signsAgree_eq_false_iff (i : Instr) :
    i.signsAgree = false ↔ i.isCmp = false ∧ i.isBinary = true ∧ i.sbb? ≠ some i.sba := by
  simp [Instr.signsAgree, Instr.isBinary, Option.isSome_iff_ne_none, and_assoc]

section
variable {c : Config} {x : Inputs} {sba sbb : SignField}

theorem exists_eq_fieldsOfSign (h : ¬(sba = .reserved ∨ sbb = .reserved)) :
    ∃ sa sb, sba = fieldOfSign sa ∧ sbb = fieldOfSign sb := by
  obtain ⟨ha, hb⟩ := not_or.1 h
  obtain ⟨sa, rfl⟩ := exists_eq_fieldOfSign ha
  obtain ⟨sb, rfl⟩ := exists_eq_fieldOfSign hb
  exact ⟨sa, sb, rfl, rfl⟩

theorem widthsFit_iff_not_wide : x.widthsFit c ↔ ¬(c.nmax < x.wa ∨ c.nmax < x.wb) := by
  rw [not_or, Nat.not_lt, Nat.not_lt]

theorem checkBinary_of_reserved (h : sba = .reserved ∨ sbb = .reserved) : checkBinary c x sba sbb = .error .badSb := by
  rcases h with rfl | rfl
  · rfl
  · cases sba <;> rfl

theorem checkBinary_of_wide (sa sb : SignBehavior) (h : c.nmax < x.wa ∨ c.nmax < x.wb) :
    checkBinary c x (fieldOfSign sa) (fieldOfSign sb) = .error .badWidth := by
  simp only [checkBinary, signOfField_fieldOfSign, ← ite_or, if_pos h]

theorem unaryResponse_err_eq (operation : SignBehavior → Nat → Nat → Nat × Bool) :
    (unaryResponse c x sba operation).ports.err =
      if sba = .reserved then 2#3 else if c.nmax < x.wa then 3#3 else 0#3 := by
  split_ifs with hreserved hwide
  · subst hreserved
    rfl
  · obtain ⟨sb, rfl⟩ := exists_eq_fieldOfSign hreserved
    simp only [unaryResponse, checkUnary, signOfField_fieldOfSign, if_pos hwide]
    rfl
  · exact unaryResponse_err hreserved (Nat.le_of_not_lt hwide) operation

theorem valueResponse_err_eq :
    (valueResponse c x sba sbb).ports.err =
      if sba = .reserved ∨ sbb = .reserved then 2#3 else if c.nmax < x.wa ∨ c.nmax < x.wb then 3#3 else 0#3 := by
  split_ifs with hreserved hwide
  · rw [valueResponse, checkBinary_of_reserved hreserved]
    rfl
  · obtain ⟨sa, sb, rfl, rfl⟩ := exists_eq_fieldsOfSign hreserved
    rw [valueResponse, checkBinary_of_wide sa sb hwide]
    rfl
  · obtain ⟨sa, sb, rfl, rfl⟩ := exists_eq_fieldsOfSign hreserved
    rw [valueResponse_ok c x sa sb (widthsFit_iff_not_wide.2 hwide)]
    rfl

theorem matchedResponse_err_eq (operation : SignBehavior → Nat → Nat → Nat → Nat × Bool) :
    (matchedResponse c x sba sbb operation).ports.err =
      if sba = .reserved ∨ sbb = .reserved then 2#3
      else if c.nmax < x.wa ∨ c.nmax < x.wb then 3#3
      else if sbb = sba then 0#3 else 4#3 := by
  split_ifs with hreserved hwide hsame
  · rw [matchedResponse, checkMatched, checkBinary_of_reserved hreserved]
    rfl
  · obtain ⟨sa, sb, rfl, rfl⟩ := exists_eq_fieldsOfSign hreserved
    rw [matchedResponse, checkMatched, checkBinary_of_wide sa sb hwide]
    rfl
  · obtain ⟨sa, -, rfl, -⟩ := exists_eq_fieldsOfSign hreserved
    rw [hsame, matchedResponse_ok c x sa (widthsFit_iff_not_wide.2 hwide)]
    rfl
  · obtain ⟨sa, sb, rfl, rfl⟩ := exists_eq_fieldsOfSign hreserved
    have hne : sa ≠ sb := fun h => hsame (congrArg fieldOfSign h.symm)
    rw [matchedResponse, checkMatched_mismatch (widthsFit_iff_not_wide.2 hwide) hne]
    rfl

end

/-- Every instruction has one of three shapes, and each makes the checks in the order of `instrErr`. -/
theorem responseOf_err_eq (c : Config) (x : Inputs) (i : Instr) :
    (responseOf c x i).ports.err = instrErr c x.wa x.wb i := by
  rw [instrErr]
  simp only [signsLegal_eq_false_iff, signsAgree_eq_false_iff, Instr.isBinary]
  cases i with
  | inc sba | dec sba | neg sba => simp [responseOf, unaryResponse_err_eq, Instr.sba, Instr.sbb?]
  | cmp sba sbb => simp [responseOf, valueResponse_err_eq, Instr.sba, Instr.sbb?, Instr.isCmp]
  | add sba sbb | adc sba sbb | sub sba sbb | and sba sbb | or sba sbb | xor sba sbb | nand sba sbb | nor sba sbb
  | xnor sba sbb | map _ sba sbb => simp [responseOf, matchedResponse_err_eq, Instr.sba, Instr.sbb?, Instr.isCmp]

section
variable {c : Config} {wa wb : Nat} {i : Instr}

theorem instrErr_ne_illegal : instrErr c wa wb i ≠ errField .illegal := by
  unfold instrErr
  split_ifs <;> decide

theorem instrErr_eq_badSb_iff : instrErr c wa wb i = errField .badSb ↔ i.signsLegal = false := by
  unfold instrErr
  split_ifs with hsigns <;> simp [hsigns, errField]

theorem instrErr_eq_badWidth_iff (hsigns : i.signsLegal = true) :
    instrErr c wa wb i = errField .badWidth ↔ c.nmax < wa ∨ (i.isBinary = true ∧ c.nmax < wb) := by
  rw [instrErr, if_neg (by simp [hsigns])]
  split_ifs with hwide <;> simp [hwide, errField]

theorem instrErr_ne_zero (hagree : i.signsAgree = false) : instrErr c wa wb i ≠ 0#3 := by
  unfold instrErr
  split_ifs <;> decide

theorem instrErr_ne_signMismatch (hagree : i.signsAgree = true) : instrErr c wa wb i ≠ errField .signMismatch := by
  rw [instrErr, if_neg (c := i.signsAgree = false) (by simp [hagree])]
  split_ifs <;> decide

theorem instrErr_eq_signMismatch (hsigns : i.signsLegal = true) (hwa : wa ≤ c.nmax) (hwb : wb ≤ c.nmax)
    (hagree : i.signsAgree = false) : instrErr c wa wb i = errField .signMismatch := by
  simp [instrErr, hsigns, hagree, Nat.not_lt.2 hwa, Nat.not_lt.2 hwb, errField]

end

/-! ### `ERR` read off the ports (60_exceptions.md R308) -/

/-- The first four checks are the decoder's. -/
theorem portCheck_of_decode_error {c : Config} {cw : ControlWord} {e : DecodeError} (h : decode cw = .error e)
    (wa wb : Nat) : portCheck c cw wa wb = 1#3 := by
  rw [portCheck, ← ite_or, ← ite_or, ← ite_or, if_pos ((exists_decode_error_iff cw).1 ⟨e, h⟩)]

theorem signsLegal_eq_false_iff_of_decode {cw : ControlWord} {i : Instr} (h : decode cw = .ok i) :
    i.signsLegal = false ↔ sbaField cw = 3#2 ∨ (binaryOpcode (opField cw) = true ∧ sbbField cw = 3#2) := by
  obtain ⟨-, -, hsba, hsbb⟩ := fields_of_namedInstr ((decode_eq_ok_iff cw i).1 h).2
  rw [signsLegal_eq_false_iff, hsba, hsbb, signFieldOfCode_eq_reserved_iff, Option.ite_none_right_eq_some,
    Option.some_inj, signFieldOfCode_eq_reserved_iff]

theorem signsAgree_eq_false_iff_of_decode {cw : ControlWord} {i : Instr} (h : decode cw = .ok i) :
    i.signsAgree = false ↔ binaryOpcode (opField cw) = true ∧ opField cw ≠ 0xD#4 ∧ sbaField cw ≠ sbbField cw := by
  obtain ⟨hop, hbin, hsba, hsbb⟩ := fields_of_namedInstr ((decode_eq_ok_iff cw i).1 h).2
  rw [signsAgree_eq_false_iff, isCmp_eq, hop, hsba, hsbb, hbin, beq_eq_false_iff_ne]
  by_cases hbinary : binaryOpcode (opField cw) = true
  · rw [if_pos hbinary, Ne, Ne, Option.some_inj, signFieldOfCode_inj, and_left_comm, ne_comm]
  · simp [hbinary]

/-- On a word that decodes the other checks are those of its instruction. -/
theorem portCheck_of_decode {c : Config} {cw : ControlWord} {i : Instr} (h : decode cw = .ok i) (wa wb : Nat) :
    portCheck c cw wa wb = instrErr c wa wb i := by
  have hdecodes : ¬∃ e, decode cw = .error e := by simp [h]
  obtain ⟨-, hbin, -⟩ := fields_of_namedInstr ((decode_eq_ok_iff cw i).1 h).2
  rw [portCheck, ← ite_or, ← ite_or, ← ite_or, if_neg (mt (exists_decode_error_iff cw).2 hdecodes)]
  simp only [instrErr, signsLegal_eq_false_iff_of_decode h, signsAgree_eq_false_iff_of_decode h, hbin, ite_or]

theorem portCheck_eq_illegal_iff {c : Config} {cw : ControlWord} {wa wb : Nat} :
    portCheck c cw wa wb = errField .illegal ↔ ∃ e, decode cw = .error e := by
  cases h : decode cw with
  | ok i => simp [portCheck_of_decode h, instrErr_ne_illegal]
  | error e => exact iff_of_true (portCheck_of_decode_error h wa wb) ⟨e, rfl⟩

theorem responseOfWord_err (c : Config) (x : Inputs) : (responseOfWord c x).ports.err = portCheck c x.cw x.wa x.wb := by
  rw [responseOfWord]
  cases h : decode x.cw with
  | ok i => rw [portCheck_of_decode h]; exact responseOf_err_eq c x i
  | error e => rw [portCheck_of_decode_error h]; rfl

/-- On held inputs a step raises an error exactly where the check procedure gives its code. -/
theorem step_eq_raise_iff {s : State} (hheld : s.held = true) (e : ErrCode) :
    step s = .next (s.raise e) ↔ portCheck s.cfg s.inp.cw s.inp.wa s.inp.wb = errField e := by
  rw [step_eq_answer hheld, ← responseOfWord_err]
  constructor
  · intro h
    exact congrArg (fun t => t.out.err) (Host.Outcome.next.inj h)
  · intro h
    obtain ⟨d, hd⟩ := (ports_err_ne_zero_iff _).1 (h ▸ errField_ne_zero e)
    rw [hd] at h ⊢
    cases errField_injective h
    rfl

theorem step_eq_raise_iff_of_decode {s : State} {i : Instr} (hheld : s.held = true) (h : decode s.inp.cw = .ok i)
    (e : ErrCode) : step s = .next (s.raise e) ↔ instrErr s.cfg s.inp.wa s.inp.wb i = errField e := by
  rw [step_eq_raise_iff hheld, portCheck_of_decode h]

/-! ### The reset state (70_reset_and_hazards.md R340, R341) -/

theorem resetAt_wf {c : Config} (hc : c.wf) : (State.resetAt c).wf :=
  ⟨hc, ⟨Nat.two_pow_pos _, Nat.two_pow_pos _, Nat.two_pow_pos _, Nat.two_pow_pos _⟩,
    .inl ⟨rfl, le_rfl, hc, Nat.two_pow_pos 1, codeOfSign_ne_reserved .unsigned, ordCode_ne_reserved .eq⟩⟩

/-- The reset inputs are the request ADD of two Unsigned zeros of width 1. -/
theorem responseOfWord_reset_ports (c : Config) : (responseOfWord c Inputs.reset).ports = Outputs.reset := by
  have hdecode : decode Inputs.reset.cw = .ok (.add .unsigned .unsigned) := decode_encode (.add .unsigned .unsigned)
  have hw : Inputs.reset.widthsFit c := ⟨Nat.zero_le _, Nat.zero_le _⟩
  have hresponse := matchedResponse_ok c Inputs.reset .unsigned hw (addWithCarry false)
  rw [responseOfWord, hdecode]
  exact (congrArg Response.ports hresponse).trans (by decide)

/-! ### The obligations -/

/-- Settles O18: the code ILLEGAL comes from the first four checks of R308 alone, which are the decoder's. -/
theorem illegalWordsAnswered : Obligations.IllegalWordsAnswered := by
  intro s hheld
  rw [step_eq_raise_iff hheld, portCheck_eq_illegal_iff, exists_decode_error_iff, binaryOpcode_eq_false_iff]
  tauto

/-- Settles O19: the first check after decoding reads the sign-behaviour fields that the operation uses. -/
theorem reservedSignAnswered : Obligations.ReservedSignAnswered := by
  intro s i hheld hdecode
  rw [step_eq_raise_iff_of_decode hheld hdecode, instrErr_eq_badSb_iff, signsLegal_eq_false_iff_of_decode hdecode,
    binaryOpcode_iff, and_comm (b := sbbField _ = _)]

/-- Settles O20: the check of the widths comes next. -/
theorem wideOperandAnswered : Obligations.WideOperandAnswered := by
  intro s i hheld hdecode hsigns
  rw [step_eq_raise_iff_of_decode hheld hdecode, instrErr_eq_badWidth_iff hsigns]

/-- Settles O21: the last check fails on mixed sign behaviours, and passes on CMP. -/
theorem mixedSignsAnswered : Obligations.MixedSignsAnswered := by
  intro s i hheld hdecode
  refine ⟨fun sbb hcmp hsbb hne => ?_, fun hcmp => ?_⟩
  · have hagree : i.signsAgree = false := by
      refine (signsAgree_eq_false_iff i).2 ⟨hcmp, by rw [Instr.isBinary, hsbb]; rfl, fun h => hne ?_⟩
      exact (Option.some_inj.1 (hsbb.symm.trans h)).symm
    refine ⟨_, step_eq_answer hheld, ?_, fun hsigns hw => ?_⟩
    · rw [State.answer_out, responseOfWord_err, portCheck_of_decode hdecode]
      exact instrErr_ne_zero hagree
    · have hmismatch := (step_eq_raise_iff_of_decode hheld hdecode .signMismatch).2
        (instrErr_eq_signMismatch hsigns hw.1 hw.2 hagree)
      rw [step_eq_answer hheld] at hmismatch
      exact Host.Outcome.next.inj hmismatch
  · rw [Ne, step_eq_raise_iff_of_decode hheld hdecode]
    exact instrErr_ne_signMismatch (by simp [Instr.signsAgree, hcmp])

/-- Settles O22: `ERR` of the response is the check procedure's code, and a response with an error code is an error response. -/
theorem errFollowsCheckOrder : Obligations.ErrFollowsCheckOrder := by
  intro s hheld
  refine ⟨_, step_eq_answer hheld, responseOfWord_err s.cfg s.inp, fun herr => ?_⟩
  obtain ⟨e, he⟩ := (ports_err_ne_zero_iff _).1 herr
  rw [State.answer_out, he]
  rfl

/-- Settles O23: a next state with `ERR` nonzero is an answer with an error response. -/
theorem errorHasNoOtherEffect : Obligations.ErrorHasNoOtherEffect := by
  intro s t hstep herr
  obtain ⟨-, rfl⟩ := eq_answer_of_step hstep
  obtain ⟨e, he⟩ := (ports_err_ne_zero_iff _).1 herr
  rw [he]
  exact ⟨rfl, e, rfl, response?_ports (.err e)⟩

/-- Settles O24: the check procedure reads nothing else, and a legal response without an error code is a success. -/
theorem errorsIgnoreData : Obligations.ErrorsIgnoreData := by
  constructor
  · intro s s' t t' hcfg hcw hwa hwb hstep hstep'
    obtain ⟨-, rfl⟩ := eq_answer_of_step hstep
    obtain ⟨-, rfl⟩ := eq_answer_of_step hstep'
    rw [State.answer_out, State.answer_out, responseOfWord_err, responseOfWord_err, hcfg, hcw, hwa, hwb]
  · intro s hheld hc hcheck
    refine ⟨_, step_eq_answer hheld, (responseOfWord_legal hc s.inp).resolve_right fun hfailure => ?_⟩
    obtain ⟨hpos, -, -⟩ := hfailure
    rw [responseOfWord_err, hcheck] at hpos
    exact absurd hpos (by decide)

/-- Settles O8: a step looks at `held` first. -/
theorem inputsChangingStops : Obligations.InputsChangingStops := fun _ => step_eq_fault

/-- Settles O16: 0 fits every port, and the outputs are a success of width 1. -/
theorem resetPortsLegal : Obligations.ResetPortsLegal := ⟨fun _ => resetAt_wf, resetAt_wf (by decide)⟩

/-- Settles O17: the outputs at reset are the response to the inputs at reset, and an answer changes nothing else. -/
theorem resetOutputsAreTheResponse : Obligations.ResetOutputsAreTheResponse := by
  intro c
  rw [step_eq_answer (State.resetAt_held c)]
  refine congrArg Host.Outcome.next (State.eq_of_fields rfl rfl rfl ?_)
  rw [State.answer_out, State.resetAt_cfg, State.resetAt_inp, State.resetAt_out, responseOfWord_reset_ports]

end Sys2Proof.Machine
end
